-- ==== Sys2Proof/Word.lean ====
section
/-! DEFINITION. The word of the bus and of the command register (R28, R61, R90), and the index of a big register
(R7: eight big registers, an index is 3 bits wide). -/

namespace Sys2Proof

/-- A 32-bit word: a bus datum, a control register, a word of a big register, a command word (R28, R61, R90). -/
abbrev Word := BitVec 32

/-- The index of a big register `BR0` to `BR7`, 3 bits wide (R7, R93). -/
abbrev Reg := BitVec 3

end Sys2Proof
end

