-- ==== Sys2Proof/Syntax.lean ====
section
/-! DEFINITION. The commands of RAE-1: one constructor for each row of the opcode table (R94, R99), with the fields R91
to R93 give it. -/

namespace Sys2Proof

/-- A command of the block. The order of the arguments is that of the assembler syntax (R102). -/
inductive Instr where
  /-- `modexp rd, rs1, rs2, rs3` (R160): base `rs1`, exponent `rs2`, modulus `rs3`. -/
  | modexp (rd rs1 rs2 rs3 : Reg)
  /-- `modmul rd, rs1, rs2, rs3` (R168): factors `rs1` and `rs2`, modulus `rs3`. -/
  | modmul (rd rs1 rs2 rs3 : Reg)
  /-- `egcd rd, rd2, rd3, rs1, rs2` (R180), or `egcd.s` where `sgn` (the field S) is true. -/
  | egcd (rd rd2 rd3 rs1 rs2 : Reg) (sgn : Bool)
  /-- `ptest rs1` (R120). -/
  | ptest (rs1 : Reg)
  /-- `pgen rd, bits` (R130): `bits` is the field IMM16. -/
  | pgen (rd : Reg) (bits : BitVec 16)
  deriving DecidableEq, Repr

end Sys2Proof
end

