-- ==== Sys2Proof/WellFormed.lean ====
section
/-! DEFINITION. The one condition on a command's fields beyond their widths: EGCD's three destinations are pairwise
different (R95, R98). -/

namespace Sys2Proof

/-- The second condition of `legal(c)` (R95). Register indices and the immediate are bounded by their types. -/
def Instr.wellFormed : Instr → Bool
  | .modexp _ _ _ _ => true
  | .modmul _ _ _ _ => true
  | .egcd rd rd2 rd3 _ _ _ => rd != rd2 && rd != rd3 && rd2 != rd3
  | .ptest _ => true
  | .pgen _ _ => true

end Sys2Proof
end

