-- ==== Sys2Proof/Decode.lean ====
section
/-! DEFINITION. The decoder of a command word (R91 to R95, R98, R99), total on the 2^32 words and rejecting by name, and
the encoder written from the same formats. -/

namespace Sys2Proof

/-- Why a word is illegal (R98). -/
inductive Reject where
  /-- OP is 0x0 or 0x6 to 0xF. -/
  | reservedOpcode
  /-- A legal OP with a nonzero bit outside that opcode's free fields. -/
  | reservedBits
  /-- EGCD with two equal destinations. -/
  | aliasedDestinations
  deriving DecidableEq, Repr

/-- The 3-bit register field whose lowest bit is bit `lo` (R91, R92). -/
def regField (lo : Nat) (c : Word) : Reg := c.extractLsb' lo 3

/-- The row test of R99: `(c AND mask) = match`. -/
def matchesRow (mask pat : Word) (c : Word) : Bool := c &&& mask == pat

/-- The instruction of a word: the word has its row's pattern (R99), and the fields meet `legal`'s second condition (R95). -/
def rowInstr (mask pat : Word) (c : Word) (i : Instr) : Except Reject Instr :=
  if !matchesRow mask pat c then .error .reservedBits
  else if !i.wellFormed then .error .aliasedDestinations
  else .ok i

/-- The decoder: the row that the opcode field names (R94), then the row's tests. -/
def decode (c : Word) : Except Reject Instr :=
  match (c.extractLsb' 0 4).toNat with
  | 1 => rowInstr 0xFFF8888F 0x00000001 c (.modexp (regField 4 c) (regField 8 c) (regField 12 c) (regField 16 c))
  | 2 => rowInstr 0xFFF8888F 0x00000002 c (.modmul (regField 4 c) (regField 8 c) (regField 12 c) (regField 16 c))
  | 3 =>
    rowInstr 0xE88F888F 0x00000003 c
      (.egcd (regField 4 c) (regField 20 c) (regField 24 c) (regField 8 c) (regField 12 c) (c.getLsbD 28))
  | 4 => rowInstr 0xFFFFF8FF 0x00000004 c (.ptest (regField 8 c))
  | 5 => rowInstr 0x0000FF8F 0x00000005 c (.pgen (regField 4 c) (c.extractLsb' 16 16))
  | _ => .error .reservedOpcode

/-- Format R (R91): `c = {3'b000, S, 1'b0, RD3, 1'b0, RD2, 1'b0, RS3, 1'b0, RS2, 1'b0, RS1, 1'b0, RD, OP}`. -/
def formatR (op : BitVec 4) (rd rs1 rs2 rs3 rd2 rd3 : Reg) (sgn : Bool) : Word :=
  0#3 ++ BitVec.ofBool sgn ++ 0#1 ++ rd3 ++ 0#1 ++ rd2 ++ 0#1 ++ rs3 ++ 0#1 ++ rs2 ++ 0#1 ++ rs1 ++ 0#1 ++ rd ++ op

/-- Format I (R92): `c = {IMM16, 9'b0, RD, OP}`. -/
def formatI (op : BitVec 4) (rd : Reg) (imm : BitVec 16) : Word := imm ++ 0#9 ++ rd ++ op

/-- The command word of an instruction: its format with its opcode (R94), unused fields 0 (R95). -/
def encode : Instr → Word
  | .modexp rd rs1 rs2 rs3 => formatR 1 rd rs1 rs2 rs3 0 0 false
  | .modmul rd rs1 rs2 rs3 => formatR 2 rd rs1 rs2 rs3 0 0 false
  | .egcd rd rd2 rd3 rs1 rs2 sgn => formatR 3 rd rs1 rs2 0 rd2 rd3 sgn
  | .ptest rs1 => formatR 4 0 rs1 0 0 0 0 false
  | .pgen rd bits => formatI 5 rd bits

/-- The instruction that the decoder reads from a word whose bits are `w`, the bits above `nbits` being 0. A command is
one 32-bit word (R90), so the table's numbering is the word's own. -/
def decodeTableWord (nbits w : Nat) : Option Instr := (decode (BitVec.ofNat 32 (w % 2 ^ nbits))).toOption

end Sys2Proof
end

