-- ==== Sys2Proof/Config.lean ====
section
/-! DEFINITION. What an implementation or the platform fixes (R6, R8), and the free values of the spec (R9, R63): the
free values are opaque, so no proof can see one. -/

namespace Sys2Proof

/-- The parameters of one block: `ww` is `WW = W/32`, the 32-bit words of a big register (R6), and `base` is the bus
address `BASE` of its window (R8). They are the spec's model parameters. -/
structure Params where
  ww : Nat
  base : Nat
  deriving DecidableEq, Repr

/-- `W`, the width in bits of every big register (R6). -/
def Params.w (p : Params) : Nat := 32 * p.ww

/-- What R6 and R8 ask of the parameters: `32 <= W <= 8192` in steps of 32, and `BASE` aligned to 16 KiB. -/
abbrev Params.wf (p : Params) : Prop := 1 ≤ p.ww ∧ p.ww ≤ 256 ∧ p.base % 0x4000 = 0

/-- The block that `State.reset` describes: `W = 32` at base address `0x40000000`. DESIGN CHOICE (log 1): R6 and R8
leave both open; every other definition takes them from the state. -/
def Config.block : Params := { ww := 1, base := 0x40000000 }

/-- The entropy oracle `Ent` of R9: the raw answer to draw number `k`, `none` for FAIL. A FREE VALUE: it has no body, so
nothing holds of it. `State.draw` puts a raw answer into the range of the draw (log 4). -/
opaque Config.ent : Nat → Option Nat

/-- The `rdata` lines of a response for which the spec states no value (R24, R63): use number `k`. A FREE VALUE (log 7). -/
opaque Config.freeRdata : Nat → Word

end Sys2Proof
end

