-- ==== Sys2Proof/Machine/State.lean ====
section
/-! DEFINITION. The state of the block (R42, R43), of its port (R61) and of what the outside world has still to do (R11),
as plain data; and the state after reset (R240, R241). -/

namespace Sys2Proof.Machine

/-- The codes of `STATUS.ERR` (R200). Codes 8 to 15 are never produced, so they have no name here. -/
inductive ErrCode where
  | noError
  | illegal
  | modZero
  | operand
  | range
  | exhausted
  | entropy
  | aborted
  deriving DecidableEq, Repr

/-- One 32-bit word of a big register (R21) with its written mark `wr[i][j]` (R23). -/
structure BrWord where
  data : Word
  wr : Bool
  deriving DecidableEq, Repr

/-- A big register: its words, word 0 (the least significant) first (R21, R68). -/
abbrev BigReg := List BrWord

/-- The test of one value (R43, R123): the value `n`, the passing tests `rounds`, the base draws `draws`, and `seen`, the
set of tested bases as a list without repeats. -/
structure TestProgress where
  n : Nat
  rounds : Nat
  draws : Nat
  seen : List Nat
  deriving DecidableEq, Repr

/-- The phase of a PGEN (R131, R133, R134). -/
inductive GenPhase where
  | needCandidate
  | testing (t : TestProgress)
  deriving DecidableEq, Repr

/-- The command in flight (R43): its fields, the source values latched at accept, and the unit's progress. -/
inductive InFlight where
  | modexp (rd rs1 rs2 rs3 : Reg) (base exponent modulus : Nat)
  | modmul (rd rs1 rs2 rs3 : Reg) (a b modulus : Nat)
  | egcd (rd rd2 rd3 rs1 rs2 : Reg) (sgn : Bool) (a b : Int)
  | ptest (rs1 : Reg) (t : TestProgress)
  | pgen (rd : Reg) (bits : BitVec 16) (cand : Nat) (phase : GenPhase)
  deriving DecidableEq, Repr

/-- The reason of a recorded model fault (R42, R202). It is a piece of state: the step that records one answers a next
state, and no step stops the machine with it (log 5). -/
inductive FaultReason where
  /-- Recorded by a host read of BR `i` word `j` before any write of it, and by an accept step whose command names a
  source register with such a word (R24, R47, I6 of 93_implementation_defined.md). -/
  | unwrittenRead (i : Reg) (j : Nat)
  /-- Recorded by a bus request that is not admitted, at offset `off` (R63). -/
  | hostBusError (off : Nat)
  deriving DecidableEq, Repr

/-- What stops the machine. Nothing does, so there is no constructor: errors are completions (R200, R204), and a model
fault is recorded in the state (R202). -/
inductive Fault where
  deriving DecidableEq, Repr

/-- Why a step has no meaning. -/
inductive Refusal where
  /-- Raised by an arm of `exec` for an instruction that is not modelled yet; no arm does. Safe. -/
  | notModelled (mnemonic : String)
  deriving DecidableEq, Repr

/-- One bus access of the host (R61) at a bus address of the platform; `wdata` matters for a write only. -/
structure Access where
  addr : Nat
  write : Bool
  size : Nat
  wdata : Word
  deriving DecidableEq, Repr

/-- A response of the bus-slave port (R61). -/
structure Response where
  rdata : Word
  err : Bool
  deriving DecidableEq, Repr

/-- Who moves (R11): the host with an access, the engine, or the reset input `rst_n` (R240). -/
inductive Turn where
  | host (a : Access)
  | engine
  | hardReset
  deriving DecidableEq, Repr

/-- The state. `cfg` is constant along a run (R42, log 1). `br` to `fault` are the spec's (R42); `STATUS.BUSY` is
`flight.isSome` (R42), the command word in flight is computed from `flight` (R43, log 10). `resp` to `freeIdx` are the model's own
(log 2, 4, 7): the port's last response, the turns still to come, the entropy answers at hand, and two counters. -/
structure State where
  cfg : Params
  br : Vector BigReg 8
  ie : Bool
  done : Bool
  prime : Bool
  ovr : Bool
  err : ErrCode
  cmdLast : Word
  rounds : BitVec 16
  retry : Word
  drawlim : Word
  candcnt : Word
  flight : Option InFlight
  fault : Option FaultReason
  resp : Option Response
  turns : List Turn
  entropy : List (Option Nat)
  drawIdx : Nat
  freeIdx : Nat
  deriving DecidableEq, Repr

/-- The state after hardware reset of a block with parameters `p` (R240, R241). The data 0 of the unwritten BR words is a
DESIGN CHOICE (log 6), as are the values of the model's own fields (log 2, 4, 7). -/
def State.resetOf (p : Params) : State where
  cfg := p
  br := Vector.replicate 8 (List.replicate p.ww { data := 0, wr := false })
  ie := false
  done := false
  prime := false
  ovr := false
  err := .noError
  cmdLast := 0
  rounds := 0x0400
  retry := 0xFFFFFFFF
  drawlim := 0xFFFFFFFF
  candcnt := 0
  flight := none
  fault := none
  resp := none
  turns := []
  entropy := []
  drawIdx := 0
  freeIdx := 0

/-- The state after reset of the block `Config.block`. -/
def State.reset : State := State.resetOf Config.block

end Sys2Proof.Machine
end

