-- ==== Sys2Proof/Machine/Operands.lean ====
section
/-! DEFINITION. The operand forms: a big register as words and as a number (R13, R21, R68), the encodings of a result
(R13), the reads and writes of the register file (R16, R22), and the unwritten-source check (R24, R47). -/

namespace Sys2Proof.Machine

/-- The number whose base-2^32 digits are the given words, least significant first (R68). -/
def ofWords : List Word → Nat
  | [] => 0
  | w :: ws => w.toNat + 2 ^ 32 * ofWords ws

/-- The `k` low words of a number, least significant first (R68). -/
def toWords : Nat → Nat → List Word
  | 0, _ => []
  | k + 1, z => BitVec.ofNat 32 z :: toWords k (z / 2 ^ 32)

/-- `sval` of a `w`-bit pattern given as its `uval` (R13): `sval(v) = uval(v) - 2^w * v[w-1]`. -/
def svalOf (w u : Nat) : Int := (u : Int) - (if u.testBit (w - 1) then 2 ^ w else 0)

/-- `enc_u` (R13): the pattern of `32 * ww` bits with `uval = z`, for `0 <= z < 2^(32*ww)`. -/
def encU (ww : Nat) (z : Nat) : List Word := toWords ww z

/-- `enc_s` (R13): the pattern of `32 * ww` bits with `sval = z`, for `z` in the two's complement range. -/
def encS (ww : Nat) (z : Int) : List Word := toWords ww (z % 2 ^ (32 * ww)).toNat

/-- Is `z` representable as an unsigned number of `w` bits (R185)? -/
def fitsU (w : Nat) (z : Int) : Bool := 0 ≤ z && z ≤ 2 ^ w - 1

/-- Is `z` representable in two's complement of `w` bits (R185)? -/
def fitsS (w : Nat) (z : Int) : Bool := -2 ^ (w - 1) ≤ z && z ≤ 2 ^ (w - 1) - 1

/-- `STATUS.BUSY` (R42: a command is in flight iff `BUSY = 1`). -/
def State.busy (s : State) : Bool := s.flight.isSome

/-- Big register `r`: its words and marks. -/
def State.reg (s : State) (r : Reg) : BigReg := s.br.get r.toFin

/-- Word `j` of BR `r` (R21). A word past the register's end does not occur at an admitted access (R62); it reads 0, unwritten. -/
def State.word (s : State) (r : Reg) (j : Nat) : BrWord := (s.reg r).getD j { data := 0, wr := false }

/-- `uval(BR[r])` (R13, R16). -/
def State.uval (s : State) (r : Reg) : Nat := ofWords ((s.reg r).map BrWord.data)

/-- `sval(BR[r])` (R13). -/
def State.sval (s : State) (r : Reg) : Int := svalOf s.cfg.w (s.uval r)

/-- BR `r` replaced whole. -/
def State.setReg (s : State) (r : Reg) (x : BigReg) : State := { s with br := s.br.set r.toNat x r.isLt }

/-- A host write of BR `r` word `j` (R65): the word's data and its mark, nothing else. -/
def State.writeWord (s : State) (r : Reg) (j : Nat) (d : Word) : State :=
  s.setReg r ((s.reg r).set j { data := d, wr := true })

/-- `BR[r] <- v` (R16): all words, every word marked written. -/
def State.writeBig (s : State) (r : Reg) (v : List Word) : State :=
  s.setReg r (v.map fun d => { data := d, wr := true })

/-- The first unwritten word of a big register, if there is one. -/
def unwrittenAt (x : BigReg) : Option Nat := x.findIdx? fun w => !w.wr

/-- The unwritten-source check of R47 over the source registers of R96, in their order. Which unwritten word it names
where there are several is a DESIGN CHOICE (log 8): the lowest word of the first such register. -/
def State.firstUnwritten (s : State) : List Reg → Option (Reg × Nat)
  | [] => none
  | r :: rs =>
    match unwrittenAt (s.reg r) with
    | some j => some (r, j)
    | none => s.firstUnwritten rs

/-- The source registers that a command's accept step reads (R96). -/
def sourcesOf : Instr → List Reg
  | .modexp _ rs1 rs2 rs3 => [rs1, rs2, rs3]
  | .modmul _ rs1 rs2 rs3 => [rs1, rs2, rs3]
  | .egcd _ _ _ rs1 rs2 _ => [rs1, rs2]
  | .ptest rs1 => [rs1]
  | .pgen _ _ => []

end Sys2Proof.Machine
end

