-- ==== Sys2Proof/Machine/Flags.lean ====
section
/-! DEFINITION. The flags of the block: STATUS as a word (R33), its write-1-to-clear writes, CTRL as a word (R32), the
error codes (R200) and the interrupt output (R206). -/

namespace Sys2Proof.Machine

/-- The number of an error code (R200). -/
def ErrCode.code : ErrCode → BitVec 4
  | .noError => 0
  | .illegal => 1
  | .modZero => 2
  | .operand => 3
  | .range => 4
  | .exhausted => 5
  | .entropy => 6
  | .aborted => 7

/-- A read of STATUS (R33): BUSY, DONE, PRIME, OVR in bits 0 to 3, ERR in bits 7:4, the reserved bits 0. -/
def State.statusWord (s : State) : Word :=
  0#24 ++ s.err.code ++ BitVec.ofBool s.ovr ++ BitVec.ofBool s.prime ++ BitVec.ofBool s.done ++ BitVec.ofBool s.busy

/-- A write of STATUS (R33): a 1 in bit 1 clears DONE, a 1 in bit 3 clears OVR; the other bits are read-only or reserved. -/
def State.writeStatus (s : State) (d : Word) : State :=
  { s with done := s.done && !d.getLsbD 1, ovr := s.ovr && !d.getLsbD 3 }

/-- A read of CTRL (R32): IE in bit 0; ABORT, SRST and the reserved bits read 0. -/
def State.ctrlWord (s : State) : Word := 0#31 ++ BitVec.ofBool s.ie

/-- The interrupt output (R206): `irq = STATUS.DONE AND CTRL.IE`. -/
def State.irq (s : State) : Bool := s.done && s.ie

end Sys2Proof.Machine
end

