-- ==== Sys2Proof/Machine/Ops.lean ====
section
/-! DEFINITION. The shared operations of the block: completion (the block's one analogue of an exception, R46, R204), the
accept step (R47), dropped writes (R66), abort and soft reset (R212, R213), hardware reset (R240), a draw (R9, R82), the
record of a model fault (R202) and the port's response (R61). -/

namespace Sys2Proof.Machine

/-- What a meaning answers. -/
abbrev Result := Host.Outcome State Fault Refusal

/-- `complete(err, prime)` (R46). BUSY falls because the flight ends. CANDCNT is written beside it where R136 says. -/
def State.complete (s : State) (e : ErrCode) (p : Bool) : State :=
  { s with flight := none, done := true, err := e, prime := p }

/-- The command `f` is in flight (R43): started, or moved on by an engine step. -/
def State.launch (s : State) (f : InFlight) : State := { s with flight := some f }

/-- The state with the turns to come replaced. -/
def State.withTurns (s : State) (ts : List Turn) : State := { s with turns := ts }

/-- `IE <- b` (R32). -/
def State.setIe (s : State) (b : Bool) : State := { s with ie := b }

/-- Record a model fault. It is sticky (R202): the first one stays (log 5). -/
def State.recordFault (s : State) (f : FaultReason) : State :=
  match s.fault with
  | some _ => s
  | none => { s with fault := some f }

/-- A write dropped because BUSY (R66): nothing but `OVR <- 1`. -/
def State.dropWrite (s : State) : State := { s with ovr := true }

/-- The first lines of the accept step (R47): the word is kept for read-back, and DONE, ERR and PRIME are cleared. -/
def State.beginAccept (s : State) (c : Word) : State :=
  { s with cmdLast := c, done := false, err := .noError, prime := false }

/-- The accept step of a word that is not legal (R47, R98): it completes with ERR_ILLEGAL in the same step. -/
def State.acceptIllegal (s : State) (c : Word) : State := (s.beginAccept c).complete .illegal false

/-- The accept step of a command (R47), its checks in the order of R203 (a): legality, the unwritten sources, then
`start`, which is the family's own accept check and start. -/
def State.accept (s : State) (i : Instr) (start : State → State) : State :=
  if !i.wellFormed then s.acceptIllegal (encode i)
  else
    match (s.beginAccept (encode i)).firstUnwritten (sourcesOf i) with
    | some (r, j) => (s.beginAccept (encode i)).recordFault (.unwrittenRead r j)
    | none => start (s.beginAccept (encode i))

/-- The instruction in flight. -/
def InFlight.instr : InFlight → Instr
  | .modexp rd rs1 rs2 rs3 _ _ _ => .modexp rd rs1 rs2 rs3
  | .modmul rd rs1 rs2 rs3 _ _ _ => .modmul rd rs1 rs2 rs3
  | .egcd rd rd2 rd3 rs1 rs2 sgn _ _ => .egcd rd rd2 rd3 rs1 rs2 sgn
  | .ptest rs1 _ => .ptest rs1
  | .pgen rd bits _ _ => .pgen rd bits

/-- CANDCNT of a count of candidates (R38, R136); a count is at most RETRY (R210), so it fits. -/
def candWord (cand : Nat) : Word := BitVec.ofNat 32 cand

/-- A completion of a PGEN that passed R131: CANDCNT in the same step (R136). -/
def State.completePgen (s : State) (cand : Nat) (e : ErrCode) (p : Bool) : State :=
  { s with candcnt := candWord cand }.complete e p

/-- Abort of the command in flight (R212); while idle it does nothing (R32). -/
def State.abort (s : State) : State :=
  match s.flight with
  | none => s
  | some (.pgen _ _ cand _) => s.completePgen cand .aborted false
  | some _ => s.complete .aborted false

/-- Soft reset (R213): the command in flight is discarded without completion and every CSR field takes its reset value;
BR contents, marks and a recorded fault are kept. -/
def State.softReset (s : State) : State :=
  { s with
    ie := false, done := false, prime := false, ovr := false, err := .noError, cmdLast := 0, rounds := 0x0400,
    retry := 0xFFFFFFFF, drawlim := 0xFFFFFFFF, candcnt := 0, flight := none }

/-- Hardware reset (R240, R241): the block's state is that after reset. What is not the block's state stays: the
parameters, the recorded model fault (R202: no later step clears it), the turns to come, and the oracle's answers and
counters (log 12). -/
def State.hardReset (s : State) : State :=
  { State.resetOf s.cfg with
    fault := s.fault, turns := s.turns, entropy := s.entropy, drawIdx := s.drawIdx, freeIdx := s.freeIdx }

/-- A write of CTRL (R32): SRST alone if bit 2 is set; otherwise IE, and then the abort if bit 1 is set. -/
def State.writeCtrl (s : State) (d : Word) : State :=
  if d.getLsbD 2 then s.softReset
  else if d.getLsbD 1 then (s.setIe (d.getLsbD 0)).abort
  else s.setIe (d.getLsbD 0)

/-- A raw answer of the oracle brought into `[lo, hi]` (R9: a draw yields a value of its range or FAIL). A value of the
range stays as it is. -/
def intoRange (lo hi v : Nat) : Nat := if lo ≤ v ∧ v ≤ hi then v else lo + v % (hi - lo + 1)

/-- The state after a draw: it is counted, and the answer at hand, if there was one, is used. -/
def State.countDraw (s : State) : State := { s with entropy := s.entropy.tail, drawIdx := s.drawIdx + 1 }

/-- `Draw(lo, hi)` (R16, R82): the next answer at hand, or the opaque oracle's where there is none (log 4). Each draw is
counted. -/
def State.draw (s : State) (lo hi : Nat) : Option Nat × State :=
  match s.entropy with
  | a :: _ => (a.map (intoRange lo hi), s.countDraw)
  | [] => ((Config.ent s.drawIdx).map (intoRange lo hi), s.countDraw)

/-- The port answers a read with data (R61, R64). -/
def State.respond (s : State) (d : Word) : State := { s with resp := some { rdata := d, err := false } }

/-- The port answers, and the spec states no `rdata` (R24, R63): the lines carry a free value (log 7). -/
def State.respondFree (s : State) (e : Bool) : State :=
  { s with resp := some { rdata := Config.freeRdata s.freeIdx, err := e }, freeIdx := s.freeIdx + 1 }

end Sys2Proof.Machine
end

