-- ==== Sys2Proof/Machine/Egcd.lean ====
section
/-! DEFINITION. The extended-Euclid unit: EGCD and its form EGCD.S (R180 to R187). -/

namespace Sys2Proof.Machine

/-- The loop of R183 on unbounded integers, the test before each step (R184 a), truncating quotient (R14). `fuel` bounds
the steps; the answer is `(g, X, Y)`. -/
def egcdLoop : Nat → Int → Int → Int → Int → Int → Int → Int × Int × Int
  | 0, oldR, _, oldX, _, oldY, _ => (oldR, oldX, oldY)
  | fuel + 1, oldR, r, oldX, x, oldY, y =>
    if r = 0 then (oldR, oldX, oldY)
    else
      let q := oldR.tdiv r
      egcdLoop fuel r (oldR - q * r) x (oldX - q * x) y (oldY - q * y)

/-- `extendedGcd(a, b)` (R183). `|r|` falls at every step (R184), so `|b| + 1` is fuel enough (log 13). -/
def extendedGcd (a b : Int) : Int × Int × Int := egcdLoop (b.natAbs + 1) a b 1 0 0 1

/-- EGCD after the legality and unwritten-source checks (R181, R182): the operands, read as `S` says, in flight. -/
def startEgcd (rd rd2 rd3 rs1 rs2 : Reg) (sgn : Bool) (s : State) : State :=
  s.launch (.egcd rd rd2 rd3 rs1 rs2 sgn
    (if sgn then s.sval rs1 else (s.uval rs1 : Int)) (if sgn then s.sval rs2 else (s.uval rs2 : Int)))

/-- The completion of EGCD (R185): the range check, then the three results together. -/
def finishEgcd (rd rd2 rd3 : Reg) (sgn : Bool) (a b : Int) (s : State) : State :=
  let (g, x, y) := extendedGcd a b
  let okg := if sgn then fitsS s.cfg.w g else fitsU s.cfg.w g
  if okg && fitsS s.cfg.w x && fitsS s.cfg.w y then
    (((s.writeBig rd (if sgn then encS s.cfg.ww g else encU s.cfg.ww g.toNat)).writeBig rd2 (encS s.cfg.ww x)).writeBig rd3
      (encS s.cfg.ww y)).complete .noError false
  else s.complete .range false

/-- EGCD (R180): accept, completion or dropped issue, as MODEXP (log 9). -/
def execEgcd (rd rd2 rd3 rs1 rs2 : Reg) (sgn : Bool) (s : State) : Result :=
  match s.flight with
  | none => .next (s.accept (.egcd rd rd2 rd3 rs1 rs2 sgn) (startEgcd rd rd2 rd3 rs1 rs2 sgn))
  | some (.egcd rd' rd2' rd3' rs1' rs2' sgn' a b) =>
    if rd' = rd ∧ rd2' = rd2 ∧ rd3' = rd3 ∧ rs1' = rs1 ∧ rs2' = rs2 ∧ sgn' = sgn then
      .next (finishEgcd rd rd2 rd3 sgn a b s)
    else .next s.dropWrite
  | some _ => .next s.dropWrite

end Sys2Proof.Machine
end

