-- ==== Sys2Proof/Machine/Modexp.lean ====
section
/-! DEFINITION. The modular exponentiation engine: MODEXP (R160 to R167) and MODMUL (R168 to R170). -/

namespace Sys2Proof.Machine

/-- Right-to-left square and multiply (R165): `fuel` bounds the bits still to take; the answer is `acc * b^e mod m`. -/
def powModLoop : Nat → Nat → Nat → Nat → Nat → Nat
  | 0, _, _, _, acc => acc
  | fuel + 1, b, e, m, acc =>
    if e = 0 then acc
    else powModLoop fuel (b * b % m) (e / 2) m (if e % 2 = 1 then acc * b % m else acc)

/-- `powmod(b, e, m)` (R15): `(b^e) mod m`, computed by R165's method (log 13); `powMod_eq` proves the two equal. -/
def powMod (b e m : Nat) : Nat := powModLoop (Nat.log2 e + 1) (b % m) e m (1 % m)

/-- MODEXP after the legality and unwritten-source checks (R161): the modulus check, then the latched values in flight. -/
def startModexp (rd rs1 rs2 rs3 : Reg) (s : State) : State :=
  if s.uval rs3 = 0 then s.complete .modZero false
  else s.launch (.modexp rd rs1 rs2 rs3 (s.uval rs1) (s.uval rs2) (s.uval rs3))

/-- The completion of MODEXP (R162). -/
def finishModexp (rd : Reg) (b e m : Nat) (s : State) : State :=
  (s.writeBig rd (encU s.cfg.ww (powMod b e m))).complete .noError false

/-- MODEXP (R160): its accept step while the block is idle, its completion while it is in flight itself, and a dropped
issue (R34, R66) while another command is in flight (log 9). -/
def execModexp (rd rs1 rs2 rs3 : Reg) (s : State) : Result :=
  match s.flight with
  | none => .next (s.accept (.modexp rd rs1 rs2 rs3) (startModexp rd rs1 rs2 rs3))
  | some (.modexp rd' rs1' rs2' rs3' b e m) =>
    if rd' = rd ∧ rs1' = rs1 ∧ rs2' = rs2 ∧ rs3' = rs3 then .next (finishModexp rd b e m s) else .next s.dropWrite
  | some _ => .next s.dropWrite

/-- MODMUL after the legality and unwritten-source checks (R168). -/
def startModmul (rd rs1 rs2 rs3 : Reg) (s : State) : State :=
  if s.uval rs3 = 0 then s.complete .modZero false
  else s.launch (.modmul rd rs1 rs2 rs3 (s.uval rs1) (s.uval rs2) (s.uval rs3))

/-- The completion of MODMUL (R168): the full product reduced (R170 c). -/
def finishModmul (rd : Reg) (a b m : Nat) (s : State) : State :=
  (s.writeBig rd (encU s.cfg.ww (a * b % m))).complete .noError false

/-- MODMUL (R168): accept, completion or dropped issue, as MODEXP (log 9). -/
def execModmul (rd rs1 rs2 rs3 : Reg) (s : State) : Result :=
  match s.flight with
  | none => .next (s.accept (.modmul rd rs1 rs2 rs3) (startModmul rd rs1 rs2 rs3))
  | some (.modmul rd' rs1' rs2' rs3' a b m) =>
    if rd' = rd ∧ rs1' = rs1 ∧ rs2' = rs2 ∧ rs3' = rs3 then .next (finishModmul rd a b m s) else .next s.dropWrite
  | some _ => .next s.dropWrite

end Sys2Proof.Machine
end

