-- ==== Sys2Proof/Machine/Primality.lean ====
section
/-! DEFINITION. The primality controller: the test step (R123), PTEST (R120 to R129) and PGEN (R130 to R137). -/

namespace Sys2Proof.Machine

/-- How one test step ends (R123): the command's end by the draw ceiling or a failed draw, a verdict, or more steps. -/
inductive TestEnd where
  | exhausted
  | entropyFail
  | failed
  | passed
  | more (t : TestProgress)
  deriving DecidableEq, Repr

/-- The test of a value before its first draw (R121, R133). -/
def TestProgress.fresh (n : Nat) : TestProgress := { n := n, rounds := 0, draws := 0, seen := [] }

/-- `seen ∪ {a}` (R123), without repeats. -/
def insertBase (a : Nat) (seen : List Nat) : List Nat := if a ∈ seen then seen else a :: seen

/-- What `TestStep` (R123) does with base `a`, the draw made: a skip of an odd seen base (R126), or the test (R124). -/
def judgeBase (rounds : Nat) (t : TestProgress) (a : Nat) : TestEnd :=
  if a ∈ t.seen ∧ a % 2 = 1 then .more { t with draws := t.draws + 1 }
  else if powMod a (t.n - 1) t.n ≠ 1 then .failed
  else if t.rounds + 1 = rounds then .passed
  else .more { t with draws := t.draws + 1, seen := insertBase a t.seen, rounds := t.rounds + 1 }

/-- `TestStep` (R123): the draw ceiling before the draw (R125), FAIL before the test (R203 b). -/
def testStep (t : TestProgress) (s : State) : TestEnd × State :=
  if t.draws = s.drawlim.toNat then (.exhausted, s)
  else
    match s.draw 2 (t.n - 1) with
    | (none, s') => (.entropyFail, s')
    | (some a, s') => (judgeBase s.rounds.toNat t a, s')

/-- PTEST after the legality and unwritten-source checks (R121). -/
def startPtest (rs1 : Reg) (s : State) : State :=
  if s.rounds = 0 ∨ s.uval rs1 < 3 then s.complete .operand false
  else s.launch (.ptest rs1 (.fresh (s.uval rs1)))

/-- One engine step of PTEST (R123), with its verdict (R128). -/
def advancePtest (rs1 : Reg) (t : TestProgress) (s : State) : State :=
  match testStep t s with
  | (.exhausted, s') => s'.complete .exhausted false
  | (.entropyFail, s') => s'.complete .entropy false
  | (.failed, s') => s'.complete .noError false
  | (.passed, s') => s'.complete .noError true
  | (.more t', s') => s'.launch (.ptest rs1 t')

/-- PTEST (R120): accept, engine step or dropped issue (log 9). -/
def execPtest (rs1 : Reg) (s : State) : Result :=
  match s.flight with
  | none => .next (s.accept (.ptest rs1) (startPtest rs1))
  | some (.ptest rs1' t) => if rs1' = rs1 then .next (advancePtest rs1 t s) else .next s.dropWrite
  | some _ => .next s.dropWrite

/-- The candidate made of a draw `r` (R132): `r OR 2^(BITS-1) OR 1`. -/
def candidateOf (bits r : Nat) : Nat := r ||| 2 ^ (bits - 1) ||| 1

/-- PGEN after the legality check (R131). -/
def startPgen (rd : Reg) (bits : BitVec 16) (s : State) : State :=
  if s.rounds = 0 ∨ bits.toNat < 2 ∨ s.cfg.w < bits.toNat then s.complete .operand false
  else s.launch (.pgen rd bits 0 .needCandidate)

/-- The candidate step of PGEN (R133): the RETRY ceiling before the draw (R203 c), the draw counted before it is looked at. -/
def candidateStep (rd : Reg) (bits : BitVec 16) (cand : Nat) (s : State) : State :=
  if cand = s.retry.toNat then s.completePgen cand .exhausted false
  else
    match s.draw 0 (2 ^ bits.toNat - 1) with
    | (none, s') => s'.completePgen (cand + 1) .entropy false
    | (some r, s') =>
      s'.launch (.pgen rd bits (cand + 1) (.testing (.fresh (candidateOf bits.toNat r))))

/-- A PGEN that has a candidate but may draw no base for it, because DRAWLIM = 0, completes with ERR_EXHAUSTED (R37, R125);
anything else stays. -/
def State.endWithoutDraws (s : State) : State :=
  match s.flight with
  | some (.pgen _ _ cand (.testing _)) => if s.drawlim = 0 then s.completePgen cand .exhausted false else s
  | _ => s

/-- The engine step in which a PGEN draws a candidate: the candidate step, and with DRAWLIM = 0 the completion with
ERR_EXHAUSTED in that same step, as R37 says. The candidate's 0 base draws are then the limit already (R125), and the step
that reaches a limit is the completion step (R45). That R133's step and R37's completion are one step is DEDUCED (log 15). -/
def advanceCandidate (rd : Reg) (bits : BitVec 16) (cand : Nat) (s : State) : State :=
  (candidateStep rd bits cand s).endWithoutDraws

/-- An engine step of PGEN in the testing phase (R134, R135). -/
def advancePgen (rd : Reg) (bits : BitVec 16) (cand : Nat) (t : TestProgress) (s : State) : State :=
  match testStep t s with
  | (.exhausted, s') => s'.completePgen cand .exhausted false
  | (.entropyFail, s') => s'.completePgen cand .entropy false
  | (.failed, s') => s'.launch (.pgen rd bits cand .needCandidate)
  | (.passed, s') => (s'.writeBig rd (encU s'.cfg.ww t.n)).completePgen cand .noError true
  | (.more t', s') => s'.launch (.pgen rd bits cand (.testing t'))

/-- PGEN (R130): accept, candidate step or test step, or dropped issue (log 9). -/
def execPgen (rd : Reg) (bits : BitVec 16) (s : State) : Result :=
  match s.flight with
  | none => .next (s.accept (.pgen rd bits) (startPgen rd bits))
  | some (.pgen rd' bits' cand phase) =>
    if rd' = rd ∧ bits' = bits then
      match phase with
      | .needCandidate => .next (advanceCandidate rd bits cand s)
      | .testing t => .next (advancePgen rd bits cand t s)
    else .next s.dropWrite
  | some _ => .next s.dropWrite

end Sys2Proof.Machine
end

