-- ==== Sys2Proof/Machine/Dispatch.lean ====
section
/-! DEFINITION. The next atomic step of a command (R45): one arm per constructor of Instr. -/

namespace Sys2Proof.Machine

def exec (i : Instr) (s : State) : Host.Outcome State Fault Refusal :=
  match i with
  | .modexp rd rs1 rs2 rs3 => Sys2Proof.Machine.execModexp rd rs1 rs2 rs3 s
  | .modmul rd rs1 rs2 rs3 => Sys2Proof.Machine.execModmul rd rs1 rs2 rs3 s
  | .egcd rd rd2 rd3 rs1 rs2 sgn => Sys2Proof.Machine.execEgcd rd rd2 rd3 rs1 rs2 sgn s
  | .ptest rs1 => Sys2Proof.Machine.execPtest rs1 s
  | .pgen rd bits => Sys2Proof.Machine.execPgen rd bits s

end Sys2Proof.Machine
end

