-- ==== Sys2Proof/Machine/Bus.lean ====
section
/-! DEFINITION. The bus-slave port (R60 to R73), the turn of the engine (R48) and the move of one turn (R11). -/

namespace Sys2Proof.Machine

/-- What an admitted offset names (R29). -/
inductive Target where
  | id
  | param
  | ctrl
  | status
  | cmd
  | rounds
  | retry
  | drawlim
  | candcnt
  | brWord (r : Reg) (j : Nat)
  deriving DecidableEq, Repr

/-- The register map of R29 for a block of `ww` words a register: `none` for an offset that is not listed. -/
def targetAt (ww off : Nat) : Option Target :=
  match off with
  | 0x000 => some .id
  | 0x004 => some .param
  | 0x008 => some .ctrl
  | 0x00C => some .status
  | 0x010 => some .cmd
  | 0x014 => some .rounds
  | 0x018 => some .retry
  | 0x01C => some .drawlim
  | 0x020 => some .candcnt
  | _ =>
    if 0x1000 ≤ off ∧ off < 0x3000 ∧ off % 4 = 0 ∧ off % 0x400 / 4 < ww then
      some (.brWord (BitVec.ofNat 3 ((off - 0x1000) / 0x400)) (off % 0x400 / 4))
    else none

/-- The admission of a request (R62): size 4, an offset that is a multiple of 4, and one that R29 lists. -/
def admitted (ww off size : Nat) : Option Target := if size = 4 ∧ off % 4 = 0 then targetAt ww off else none

/-- The offset of a bus address in the block's window `[BASE, BASE + 0x4000)`; an address outside it is not the
block's (R8). -/
def offsetOf (base addr : Nat) : Option Nat := if base ≤ addr ∧ addr < base + 0x4000 then some (addr - base) else none

/-- The ID register (R30). -/
def idWord : Word := 0x52534101

/-- The PARAM register (R31): `{12'b0, 4'd7, WW[15:0]}`. -/
def paramWord (ww : Nat) : Word := 0#12 ++ 7#4 ++ BitVec.ofNat 16 ww

/-- An admitted read (R64, R67). An unwritten BR word is the model fault `UnwrittenRead`, and the data the port then
gives is a free value (R24). -/
def State.busRead (s : State) : Target → State
  | .id => s.respond idWord
  | .param => s.respond (paramWord s.cfg.ww)
  | .ctrl => s.respond s.ctrlWord
  | .status => s.respond s.statusWord
  | .cmd => s.respond s.cmdLast
  | .rounds => s.respond (s.rounds.setWidth 32)
  | .retry => s.respond s.retry
  | .drawlim => s.respond s.drawlim
  | .candcnt => s.respond s.candcnt
  | .brWord r j =>
    if (s.word r j).wr then s.respond (s.word r j).data
    else (s.respondFree false).recordFault (.unwrittenRead r j)

/-- A write that is dropped while BUSY (R66), and acts as `write` says while idle. -/
def State.idleWrite (s : State) (write : State → State) : State := if s.busy then s.dropWrite else write s

/-- The host's write of `c` to CMD (R34, R47): dropped while BUSY; while idle the accept step of the command that the
word is, or of an illegal word (R98). -/
def issue (c : Word) (s : State) : Result :=
  if s.busy then .next s.dropWrite
  else
    match decode c with
    | .ok i => exec i s
    | .error _ => .next (s.acceptIllegal c)

/-- An admitted write (R65 to R67). -/
def busWrite (t : Target) (d : Word) (s : State) : Result :=
  match t with
  | .id => .next s
  | .param => .next s
  | .ctrl => .next (s.writeCtrl d)
  | .status => .next (s.writeStatus d)
  | .cmd => issue d s
  | .rounds => .next (s.idleWrite fun s => { s with rounds := d.setWidth 16 })
  | .retry => .next (s.idleWrite fun s => { s with retry := d })
  | .drawlim => .next (s.idleWrite fun s => { s with drawlim := d })
  | .candcnt => .next s
  | .brWord r j => .next (s.idleWrite fun s => s.writeWord r j d)

/-- One bus access of the host (R61 to R63). The block gives no response to an address that is not its own (log 11). -/
def serve (a : Access) (s : State) : Result :=
  match offsetOf s.cfg.base a.addr with
  | none => .next { s with resp := none }
  | some off =>
    match admitted s.cfg.ww off a.size with
    | none => .next ((s.respondFree true).recordFault (.hostBusError off))
    | some t => if a.write then busWrite t a.wdata (s.respondFree false) else .next (s.busRead t)

/-- The engine's turn (R45, R48): the next step of the command in flight. With a model fault recorded, and while idle, it
has no step and nothing changes. -/
def engineTurn (s : State) : Result :=
  match s.fault, s.flight with
  | none, some f => exec f.instr s
  | _, _ => .next s

/-- The move of one turn (R11). -/
def takeTurn (t : Turn) (s : State) : Result :=
  match t with
  | .host a => serve a s
  | .engine => engineTurn s
  | .hardReset => .next s.hardReset

/-- The machine's move: the first of the turns to come; where there is none, the engine's (log 2). -/
def move (s : State) : Result :=
  match s.turns with
  | [] => engineTurn s
  | t :: rest => takeTurn t (s.withTurns rest)

/-- The host access that issues the word `c` (R104): a write of CMD in the window of the block. -/
def issueAccess (base : Nat) (c : Word) : Access := { addr := base + 0x010, write := true, size := 4, wdata := c }

end Sys2Proof.Machine
end

