-- ==== Sys2Proof/Machine/Step.lean ====
section
/-! DEFINITION. One step of the machine, and the placing of a command word where the next step takes it. -/

namespace Sys2Proof.Machine

/-- One atomic step (R11). -/
def step (s : State) : Host.Outcome State Fault Refusal := move s

/-- `s` with a CMD write of the word as the next turn (log 3). A CMD write is accepted only while idle (R34), so no
command is in flight. -/
def State.withFetchWord (s : State) (nbits w : Nat) : State :=
  { s with
    flight := none,
    turns := .host (issueAccess s.cfg.base (BitVec.ofNat 32 (w % 2 ^ nbits))) :: s.turns }

end Sys2Proof.Machine
end

