-- ==== Sys2Proof/Machine/Invariant.lean ====
section
/-! DEFINITION. The invariant of the machine: what the rules make true of every state a run reaches (R6, R23, R33, R34,
R42, R43, R121, R123, R131 to R133, R161, R181). -/

namespace Sys2Proof.Machine

/-- A test under way (R123): the value has a base range (R121), fewer than ROUNDS rounds have passed, every round took a
draw and every seen base a round, the draws are within DRAWLIM (R125), and each seen base is one of the range that
passed (R124). -/
def TestProgress.ok (rounds drawlim : Nat) (t : TestProgress) : Prop :=
  3 ≤ t.n ∧ t.rounds < rounds ∧ t.rounds ≤ t.draws ∧ t.draws ≤ drawlim ∧ t.seen.length ≤ t.rounds ∧ t.seen.Nodup ∧
    ∀ a ∈ t.seen, 2 ≤ a ∧ a ≤ t.n - 1 ∧ a ^ (t.n - 1) % t.n = 1

/-- The range of an EGCD operand (R181). -/
def operandRange (w : Nat) (sgn : Bool) (a : Int) : Prop :=
  if sgn then -2 ^ (w - 1) ≤ a ∧ a ≤ 2 ^ (w - 1) - 1 else 0 ≤ a ∧ a ≤ 2 ^ w - 1

/-- What the accept checks and the engine steps make true of the command in flight (R43). -/
def InFlight.ok (s : State) : InFlight → Prop
  | .modexp _ _ _ _ b e m => 0 < m ∧ b < 2 ^ s.cfg.w ∧ e < 2 ^ s.cfg.w ∧ m < 2 ^ s.cfg.w
  | .modmul _ _ _ _ a b m => 0 < m ∧ a < 2 ^ s.cfg.w ∧ b < 2 ^ s.cfg.w ∧ m < 2 ^ s.cfg.w
  | .egcd _ _ _ _ _ sgn a b => operandRange s.cfg.w sgn a ∧ operandRange s.cfg.w sgn b
  | .ptest _ t => t.ok s.rounds.toNat s.drawlim.toNat ∧ t.n < 2 ^ s.cfg.w
  | .pgen _ bits cand phase =>
    s.rounds ≠ 0 ∧ 2 ≤ bits.toNat ∧ bits.toNat ≤ s.cfg.w ∧ cand ≤ s.retry.toNat ∧
      match phase with
      | .needCandidate => True
      | .testing t =>
        1 ≤ cand ∧ t.ok s.rounds.toNat s.drawlim.toNat ∧ t.n % 2 = 1 ∧ 2 ^ (bits.toNat - 1) ≤ t.n ∧ t.n < 2 ^ bits.toNat

/-- The command in flight beside the registers: BUSY excludes DONE, ERR and PRIME (R33), the read-back is its word (R34),
and its own record is in order. -/
def State.flightOk (s : State) : Prop :=
  match s.flight with
  | none => True
  | some f =>
    s.done = false ∧ s.err = .noError ∧ s.prime = false ∧ s.cmdLast = encode f.instr ∧ f.instr.wellFormed = true ∧ f.ok s

/-- The invariant: a legal instance (R6, R8), `WW` words in every big register (R21), PRIME only with ERR = NONE (R33), and the
command in flight in order. -/
def State.Inv (s : State) : Prop :=
  s.cfg.wf ∧ (∀ r, (s.reg r).length = s.cfg.ww) ∧ (s.prime = true → s.err = .noError) ∧ s.flightOk

end Sys2Proof.Machine
end

