-- ==== Sys2Proof/Safety.lean ====
section
/-! DEFINITION. What counts as a safe run (R24, R202), and the words in which the claims speak: host accesses, written
sources, destinations, completion, what stays the same, `legal` as R95 writes it, and Euclid's run as R183 writes it. -/

namespace Sys2Proof

namespace Machine

/-- No model fault is recorded (R202: a state with one is never a successful final state). -/
def State.faultFree (s : State) : Prop := s.fault = none

/-! Host accesses -/

/-- The host writes `d` at offset `off` of the block's window. -/
def hostWrite (s : State) (off : Nat) (d : Word) : Turn :=
  .host { addr := s.cfg.base + off, write := true, size := 4, wdata := d }

/-- The host reads at offset `off` of the block's window. -/
def hostRead (s : State) (off : Nat) : Turn :=
  .host { addr := s.cfg.base + off, write := false, size := 4, wdata := 0 }

/-- The offset of BR `r` word `j` (R29). -/
def brOffset (r : Reg) (j : Nat) : Nat := 0x1000 + 0x400 * r.toNat + 4 * j

/-- The offsets that R29 lists for a block of `ww` words a register. -/
def listedOffset (ww off : Nat) : Prop := (off % 4 = 0 ∧ off ≤ 0x020) ∨ ∃ r : Reg, ∃ j < ww, off = brOffset r j

/-- What a read of the control register at `off` gives (R30 to R38): STATUS and CTRL bit by bit, reserved bits 0. -/
abbrev controlValue (s : State) (off : Nat) (d : Word) : Prop :=
  (off = 0x000 ∧ d = 0x52534101) ∨
  (off = 0x004 ∧ d.extractLsb' 0 16 = BitVec.ofNat 16 s.cfg.ww ∧ d.extractLsb' 16 4 = 7 ∧ d.extractLsb' 20 12 = 0) ∨
  (off = 0x008 ∧ d.getLsbD 0 = s.ie ∧ d.extractLsb' 1 31 = 0) ∨
  (off = 0x00C ∧ d.getLsbD 0 = s.busy ∧ d.getLsbD 1 = s.done ∧ d.getLsbD 2 = s.prime ∧ d.getLsbD 3 = s.ovr ∧
    d.extractLsb' 4 4 = s.err.code ∧ d.extractLsb' 8 24 = 0) ∨
  (off = 0x010 ∧ d = s.cmdLast) ∨
  (off = 0x014 ∧ d.extractLsb' 0 16 = s.rounds ∧ d.extractLsb' 16 16 = 0) ∨
  (off = 0x018 ∧ d = s.retry) ∨ (off = 0x01C ∧ d = s.drawlim) ∨ (off = 0x020 ∧ d = s.candcnt)

/-- It is the engine's turn: it is named next, or no turn is named. -/
def engineNext (s : State) : Prop := s.turns = [] ∨ ∃ rest, s.turns = .engine :: rest

/-! Operands and results -/

/-- Every word of every source register of `i` is written (R24, R96). -/
def sourcesWritten (s : State) (i : Instr) : Prop := ∀ r ∈ sourcesOf i, ∀ w ∈ s.reg r, w.wr = true

/-- The destination registers of a command (R97). -/
def destinationsOf : Instr → List Reg
  | .modexp rd _ _ _ => [rd]
  | .modmul rd _ _ _ => [rd]
  | .egcd rd rd2 rd3 _ _ _ => [rd, rd2, rd3]
  | .ptest _ => []
  | .pgen rd _ => [rd]

/-- BR `r` was written whole: `WW` words, every mark set (R23). -/
def wholeWritten (t : State) (r : Reg) : Prop := (t.reg r).length = t.cfg.ww ∧ ∀ w ∈ t.reg r, w.wr = true

/-- The status of a completion (R46). -/
def completed (t : State) (e : ErrCode) (p : Bool) : Prop := t.flight = none ∧ t.done = true ∧ t.err = e ∧ t.prime = p

/-- The result register of EGCD read as R185 says: unsigned with S = 0, two's complement with S = 1. -/
def readBack (t : State) (sgn : Bool) (r : Reg) : Int := if sgn then t.sval r else (t.uval r : Int)

/-- An EGCD operand read as R181 says. -/
def operandOf (s : State) (sgn : Bool) (r : Reg) : Int := if sgn then s.sval r else (s.uval r : Int)

/-! What stays the same -/

/-- The registers outside a list are unchanged. -/
def sameRegsBut (rs : List Reg) (s t : State) : Prop := ∀ r, r ∉ rs → t.reg r = s.reg r

/-- What no command touches: the instance, CTRL, the limits, the port and the turns. -/
def sameControl (s t : State) : Prop :=
  t.cfg = s.cfg ∧ t.ie = s.ie ∧ t.rounds = s.rounds ∧ t.retry = s.retry ∧ t.drawlim = s.drawlim ∧ t.resp = s.resp ∧
    t.turns = s.turns ∧ t.freeIdx = s.freeIdx

/-- No draw was made. -/
def sameDraws (s t : State) : Prop := t.entropy = s.entropy ∧ t.drawIdx = s.drawIdx

/-- The frame that every command shares: the registers outside its destinations and the control part are unchanged, no
register is written at accept or with an error, OVR changes only by a dropped issue, and once a command is in flight the
read-back and the record of a model fault stay. -/
def commandFrame (i : Instr) (s t : State) : Prop :=
  sameRegsBut (destinationsOf i) s t ∧ sameControl s t ∧
    (s.flight = none ∨ t.err ≠ .noError → sameRegsBut [] s t) ∧
    (s.flight = none ∨ s.flight.map InFlight.instr = some i → t.ovr = s.ovr) ∧
    (s.flight ≠ none → t.cmdLast = s.cmdLast ∧ t.fault = s.fault)

/-- Every field of the block is unchanged (R63, R72); the record of a model fault and the port are not among them. -/
def sameBlock (s t : State) : Prop :=
  t.cfg = s.cfg ∧ t.br = s.br ∧ t.ie = s.ie ∧ t.done = s.done ∧ t.prime = s.prime ∧ t.ovr = s.ovr ∧ t.err = s.err ∧
    t.cmdLast = s.cmdLast ∧ t.rounds = s.rounds ∧ t.retry = s.retry ∧ t.drawlim = s.drawlim ∧ t.candcnt = s.candcnt ∧
    t.flight = s.flight

/-- What is visible of a BR word: its mark, and its data if it is written (R24). -/
def BrWord.visible (w : BrWord) : Bool × Option Word := (w.wr, if w.wr then some w.data else none)

/-- Two states that differ in nothing but the contents of unwritten BR words. -/
def sameButUnwritten (s s' : State) : Prop :=
  { s' with br := s.br } = s ∧ ∀ r, (s.reg r).map BrWord.visible = (s'.reg r).map BrWord.visible

/-! The spec's own forms -/

/-- `legal(c)` as the case list of R95 writes it. -/
def legalWord (c : Word) : Prop :=
  match (c.extractLsb' 0 4).toNat with
  | 1 => c &&& 0xFFF8888F#32 = 1
  | 2 => c &&& 0xFFF8888F#32 = 2
  | 3 => c &&& 0xE88F888F#32 = 3 ∧ c.extractLsb' 4 3 ≠ c.extractLsb' 20 3 ∧ c.extractLsb' 4 3 ≠ c.extractLsb' 24 3 ∧
      c.extractLsb' 20 3 ≠ c.extractLsb' 24 3
  | 4 => c &&& 0xFFFFF8FF#32 = 4
  | 5 => c &&& 0x0000FF8F#32 = 5
  | _ => False

/-- The rows of R99: mask and match. -/
def opcodeRows : List (Word × Word) :=
  [(0xFFF8888F, 1), (0xFFF8888F, 2), (0xE88F888F, 3), (0xFFFFF8FF, 4), (0x0000FF8F, 5)]

/-- The loop of R183 as a relation: `EuclidRun old_r r old_x x old_y y (g, X, Y)`. -/
inductive EuclidRun : Int → Int → Int → Int → Int → Int → Int × Int × Int → Prop where
  | stop (oldR oldX x oldY y : Int) : EuclidRun oldR 0 oldX x oldY y (oldR, oldX, oldY)
  | step {oldR r oldX x oldY y q : Int} {res : Int × Int × Int} (hr : r ≠ 0) (hq : q = oldR.tdiv r)
      (h : EuclidRun r (oldR - q * r) x (oldX - q * x) y (oldY - q * y) res) : EuclidRun oldR r oldX x oldY y res

/-- The range check of R185 on the three results. -/
def egcdFits (w : Nat) (sgn : Bool) (g x y : Int) : Prop :=
  operandRange w sgn g ∧ operandRange w true x ∧ operandRange w true y

end Machine

/-- A run of `k` steps from `s` that ends in a state without a model fault. -/
def SafeRun (k : Nat) (s : Machine.State) : Prop := ∃ t, core.run k s = .next t ∧ t.faultFree

end Sys2Proof
end

