-- ==== Sys2Proof/Certificates/Slice0/Obligations.lean ====
section
/-! DEFINITION. The statements for the provers. Each docstring names the rules it formalises. -/

section

open Sys2Proof Sys2Proof.Machine

/-! ## Encoding -/

/-- R105: the worked encodings, six words that decode and three that are illegal. -/
def Obligations.WorkedEncodingsDecode : Prop :=
  decode 0x00021031 = .ok (.modexp 3 0 1 2) ∧ decode 0x00021032 = .ok (.modmul 3 0 1 2) ∧
  decode 0x04301023 = .ok (.egcd 2 3 4 0 1 false) ∧ decode 0x14301023 = .ok (.egcd 2 3 4 0 1 true) ∧
  decode 0x00000504 = .ok (.ptest 5) ∧ decode 0x02000065 = .ok (.pgen 6 512) ∧
  decode 0x04201023 = .error .aliasedDestinations ∧ decode 0x00021039 = .error .reservedOpcode ∧
  decode 0x00021831 = .error .reservedBits

/-- R91, R92, R95, R99: decoding the word of a well-formed command gives the command back, at every value of every field;
the word of an EGCD with aliased destinations is rejected as that. -/
def Obligations.DecodeOfEncode : Prop :=
  ∀ i : Instr, (i.wellFormed = true → decode (encode i) = .ok i) ∧
    (i.wellFormed = false → decode (encode i) = .error .aliasedDestinations)

/-- R91, R92, R98, R99: a word that decodes is the word of the command it decodes to, so no two words mean one command and
no bit of a word is dropped. -/
def Obligations.EncodeOfDecode : Prop :=
  ∀ (c : Word) (i : Instr), decode c = .ok i → i.wellFormed = true ∧ encode i = c

/-- R95: a word decodes exactly when it is legal; it is legal exactly when it matches exactly one row, with EGCD's
destinations pairwise different; an illegal word completes at accept with ERR_ILLEGAL. -/
def Obligations.LegalWordsDecode : Prop :=
  ∀ c : Word, (legalWord c ↔ ∃ i, decode c = .ok i) ∧
    (legalWord c ↔ (opcodeRows.filter fun row => c &&& row.1 == row.2).length = 1 ∧
      (c &&& 0xE88F888F#32 = 3 → c.extractLsb' 4 3 ≠ c.extractLsb' 20 3 ∧ c.extractLsb' 4 3 ≠ c.extractLsb' 24 3 ∧
        c.extractLsb' 20 3 ≠ c.extractLsb' 24 3)) ∧
    (¬ legalWord c → ∀ s : State, s.flight = none →
      issue c s = .next { s with cmdLast := c, done := true, err := .illegal, prime := false })

/-! ## Reset, steps and the invariant -/

/-- R241: the reset value of every piece of state, read as the host reads it where it is a register, and the same values
after a soft reset but for the BRs, which keep contents and marks. -/
def Obligations.ResetValues : Prop :=
  (∀ p : Params, ∀ s : State, s = State.resetOf p →
    ((∀ r, ∀ j < p.ww, (s.word r j).wr = false) ∧ s.cfg = p) ∧ s.flight = none ∧ s.irq = false ∧
      s.busRead .id = s.respond 0x52534101 ∧ s.busRead .param = s.respond (0#12 ++ 7#4 ++ BitVec.ofNat 16 p.ww) ∧
      s.busRead .ctrl = s.respond 0 ∧ s.busRead .status = s.respond 0 ∧ s.busRead .cmd = s.respond 0 ∧
      s.busRead .rounds = s.respond 0x00000400 ∧ s.busRead .retry = s.respond 0xFFFFFFFF ∧
      s.busRead .drawlim = s.respond 0xFFFFFFFF ∧ s.busRead .candcnt = s.respond 0) ∧
  ∀ s t : State, t = s.softReset →
    t.br = s.br ∧ t.flight = none ∧ t.irq = false ∧
      t.busRead .id = t.respond 0x52534101 ∧ t.busRead .param = t.respond (0#12 ++ 7#4 ++ BitVec.ofNat 16 s.cfg.ww) ∧
      t.busRead .ctrl = t.respond 0 ∧ t.busRead .status = t.respond 0 ∧ t.busRead .cmd = t.respond 0 ∧
      t.busRead .rounds = t.respond 0x00000400 ∧ t.busRead .retry = t.respond 0xFFFFFFFF ∧
      t.busRead .drawlim = t.respond 0xFFFFFFFF ∧ t.busRead .candcnt = t.respond 0

/-- The invariant holds after reset of every legal instance (R6, R8), `State.reset` among them. -/
def Obligations.ResetMeetsInvariant : Prop := (∀ p : Params, p.wf → (State.resetOf p).Inv) ∧ State.reset.Inv

/-- Every step keeps the invariant, whoever moves (R21, R33, R34, R43, R121, R123, R125, R131, R133, R161, R181). -/
def Obligations.StepKeepsInvariant : Prop := ∀ s t : State, s.Inv → step s = .next t → t.Inv

/-- R34, R47, R98: a CMD write while idle, on the state after the turn is taken and the port has answered the write (the
turns and the answer are the model's own fields, log 2 and log 7): of a word that decodes to `i` it is exec of `i`; of any
other word it completes in the same step with ERR_ILLEGAL, with no other effect than the read-back and the status. -/
def Obligations.CommandWriteRunsTheDecodedCommand : Prop :=
  ∀ (s : State) (c : Word) (rest : List Turn), s.turns = hostWrite s 0x010 c :: rest → s.flight = none →
    (∀ i, decode c = .ok i → step s = exec i ((s.withTurns rest).respondFree false)) ∧
    (∀ e, decode c = .error e → step s = .next { (s.withTurns rest).respondFree false with
      cmdLast := c, done := true, err := .illegal, prime := false })

/-- R45, R48: the engine's turn is exec of the command in flight; with a model fault recorded, and while idle, the engine has
no step and nothing changes but the turn taken. That an unnamed turn is the engine's is the model's choice (log 2). -/
def Obligations.EngineTurnRunsTheCommandInFlight : Prop :=
  ∀ s s' : State, (s.turns = [] ∧ s' = s ∨ s.turns = .engine :: s'.turns ∧ s' = s.withTurns s'.turns) →
    (∀ f, s.fault = none → s.flight = some f → step s = exec f.instr s') ∧
    (s.fault ≠ none ∨ s.flight = none → step s = .next s')

/-! ## The bus -/

/-- R65, R27: a host write of a BR word while idle stores the word and sets its mark; every other word is unchanged, and so are
the flags, the other registers of the block, and the fault record. -/
def Obligations.HostWriteStoresOneWord : Prop :=
  ∀ (s : State) (r : Reg) (j : Nat) (d : Word) (rest : List Turn), s.Inv → j < s.cfg.ww → s.flight = none →
    s.turns = hostWrite s (brOffset r j) d :: rest →
    ∃ t, step s = .next t ∧ t.word r j = { data := d, wr := true } ∧
      (∀ r' k, (r', k) ≠ (r, j) → t.word r' k = s.word r' k) ∧ (∀ r', (t.reg r').length = (s.reg r').length) ∧
      sameBlock s { t with br := s.br } ∧ t.fault = s.fault

/-- R64: a read of a written BR word gives its data at any time, BUSY or not; a read of an unwritten word, where no fault is
recorded yet, records the model fault UnwrittenRead. Neither changes the block. -/
def Obligations.HostReadGivesTheWord : Prop :=
  ∀ (s : State) (r : Reg) (j : Nat) (rest : List Turn), s.cfg.wf → j < s.cfg.ww →
    s.turns = hostRead s (brOffset r j) :: rest →
    ∃ t, step s = .next t ∧ sameBlock s t ∧
      ((s.word r j).wr = true → t.resp = some { rdata := (s.word r j).data, err := false } ∧ t.fault = s.fault) ∧
      ((s.word r j).wr = false → s.fault = none → t.fault = some (.unwrittenRead r j))

/-- R30 to R38, R67: what a read of each control register gives, STATUS bit by bit, reserved bits 0; the block is unchanged. -/
def Obligations.ControlReads : Prop :=
  ∀ (s : State) (off : Nat) (d : Word) (rest : List Turn), s.turns = hostRead s off :: rest → controlValue s off d →
    ∃ t, step s = .next t ∧ t.resp = some { rdata := d, err := false } ∧ sameBlock s t ∧ t.fault = s.fault

/-- R32, R35 to R37, R39: while idle, a write of ROUNDS stores bits 15:0, of RETRY and DRAWLIM the word. Idle or BUSY, a write
of CTRL with bits 2 and 1 clear stores bit 0 in IE, and a write of ID, PARAM or CANDCNT changes nothing. No other field of
the block moves, and no fault is recorded. -/
def Obligations.ControlWrites : Prop :=
  ∀ (s t : State) (off : Nat) (d : Word) (rest : List Turn), s.turns = hostWrite s off d :: rest → step s = .next t →
    (off = 0x014 → s.flight = none → t.rounds = d.extractLsb' 0 16 ∧ sameBlock s { t with rounds := s.rounds } ∧
      t.fault = s.fault) ∧
    (off = 0x018 → s.flight = none → t.retry = d ∧ sameBlock s { t with retry := s.retry } ∧ t.fault = s.fault) ∧
    (off = 0x01C → s.flight = none → t.drawlim = d ∧ sameBlock s { t with drawlim := s.drawlim } ∧
      t.fault = s.fault) ∧
    (off = 0x008 → d.getLsbD 2 = false → d.getLsbD 1 = false →
      t.ie = d.getLsbD 0 ∧ sameBlock s { t with ie := s.ie } ∧ t.fault = s.fault) ∧
    (off = 0x000 ∨ off = 0x004 ∨ off = 0x020 → sameBlock s t ∧ t.fault = s.fault)

/-- R33, R28: a STATUS write clears DONE where bit 1 is 1 and OVR where bit 3 is 1, idle or BUSY, and changes nothing else. -/
def Obligations.StatusWriteClears : Prop :=
  ∀ (s : State) (d : Word) (rest : List Turn), s.turns = hostWrite s 0x00C d :: rest →
    ∃ t, step s = .next t ∧ t.done = (s.done && !d.getLsbD 1) ∧ t.ovr = (s.ovr && !d.getLsbD 3) ∧
      sameBlock s { t with done := s.done, ovr := s.ovr } ∧ t.fault = s.fault

/-- R66: while BUSY, a write of CMD, a BR word, ROUNDS, RETRY or DRAWLIM sets OVR and has no other effect; a write of CTRL
or STATUS acts as R32 and R33 say; a write of ID, PARAM or CANDCNT is ignored without OVR; a read is served. -/
def Obligations.BusyWritesAreDropped : Prop :=
  ∀ (s t : State) (off : Nat) (d : Word) (rest : List Turn), s.cfg.wf → s.flight ≠ none → step s = .next t →
    (s.turns = hostWrite s off d :: rest →
      (off = 0x010 ∨ off = 0x014 ∨ off = 0x018 ∨ off = 0x01C ∨ (∃ r, ∃ j < s.cfg.ww, off = brOffset r j) →
        t.ovr = true ∧ sameBlock s { t with ovr := s.ovr } ∧ t.fault = s.fault) ∧
      (off = 0x008 → t = ((s.withTurns rest).respondFree false).writeCtrl d) ∧
      (off = 0x00C → t = ((s.withTurns rest).respondFree false).writeStatus d) ∧
      (off = 0x000 ∨ off = 0x004 ∨ off = 0x020 → sameBlock s t ∧ t.fault = s.fault)) ∧
    (s.turns = hostRead s off :: rest → sameBlock s t ∧ ∀ tgt, admitted s.cfg.ww off 4 = some tgt →
      t = (s.withTurns rest).busRead tgt)

/-- R62, R63, R70: a request inside the window that is not of size 4, not at a multiple of 4, or at no listed offset gets
err = 1, changes no state of the block and records HostBusError (if nothing was recorded before, log 5); an admitted
request gets err = 0. R8: a request outside [BASE, BASE + 0x4000), read or write, changes no state of the block; that it gets
no response and records no fault is the model's deduction (log 11). -/
def Obligations.OnlyListedWordsAreServed : Prop :=
  ∀ (s t : State) (a : Access) (rest : List Turn), s.cfg.wf → s.turns = .host a :: rest → step s = .next t →
    (¬ (s.cfg.base ≤ a.addr ∧ a.addr < s.cfg.base + 0x4000) →
      t.resp = none ∧ sameBlock s t ∧ sameDraws s t ∧ t.fault = s.fault) ∧
    ∀ off < 0x4000, a.addr = s.cfg.base + off →
      (¬ (a.size = 4 ∧ off % 4 = 0 ∧ listedOffset s.cfg.ww off) →
        (∃ x, t.resp = some { rdata := x, err := true }) ∧ sameBlock s t ∧ sameDraws s t ∧
          t.fault = some (s.fault.getD (.hostBusError off))) ∧
      (a.size = 4 ∧ off % 4 = 0 ∧ listedOffset s.cfg.ww off → ∃ x, t.resp = some { rdata := x, err := false })

/-- R72: no read changes a field of the block, wherever it goes and whatever its size. -/
def Obligations.ReadsHaveNoSideEffect : Prop :=
  ∀ (s t : State) (a : Access) (rest : List Turn), s.turns = .host a :: rest → a.write = false → step s = .next t →
    sameBlock s t ∧ sameDraws s t

/-- R213, R32: a CTRL write with bit 2 set, whatever the other bits: the command in flight is discarded without completion,
every CSR field takes its reset value, BR contents, marks and a recorded fault are kept, and irq is 0. -/
def Obligations.SoftResetActs : Prop :=
  ∀ (s : State) (d : Word) (rest : List Turn), s.turns = hostWrite s 0x008 d :: rest → d.getLsbD 2 = true →
    ∃ t, step s = .next t ∧ t.flight = none ∧ t.done = false ∧ t.prime = false ∧ t.ovr = false ∧ t.err = .noError ∧
      t.ie = false ∧ t.cmdLast = 0 ∧ t.rounds = 1024 ∧ t.retry = 0xFFFFFFFF ∧ t.drawlim = 0xFFFFFFFF ∧ t.candcnt = 0 ∧
      t.br = s.br ∧ t.fault = s.fault ∧ t.irq = false

/-- R212, R32: a CTRL write with bit 1 set and bit 2 clear. While BUSY it completes the command with ERR_ABORTED in this step,
a PGEN's count going to CANDCNT, no BR written, irq as the written IE; while idle only IE changes. -/
def Obligations.AbortActs : Prop :=
  ∀ (s : State) (d : Word) (rest : List Turn), s.turns = hostWrite s 0x008 d :: rest → d.getLsbD 2 = false →
    d.getLsbD 1 = true →
    ∃ t, step s = .next t ∧ t.ie = d.getLsbD 0 ∧ t.br = s.br ∧ t.fault = s.fault ∧ t.ovr = s.ovr ∧
      t.cmdLast = s.cmdLast ∧
      (∀ f, s.flight = some f → completed t .aborted false ∧ t.irq = d.getLsbD 0 ∧
        (∀ rd bits cand ph, f = .pgen rd bits cand ph → t.candcnt = BitVec.ofNat 32 cand) ∧
        ((∀ rd bits cand ph, f ≠ .pgen rd bits cand ph) → t.candcnt = s.candcnt)) ∧
      (s.flight = none → sameBlock s { t with ie := s.ie })

/-- R206: while IE = 1 the engine step that ends a command raises irq, with or without an error; while IE = 0 irq is 0; a
STATUS write with bit 1 set lowers it; a CTRL write with bit 0 set and bits 2 and 1 clear, whatever its reserved bits,
raises it at once while DONE = 1. -/
def Obligations.InterruptFollowsCompletion : Prop :=
  ∀ s t : State, step s = .next t →
    (engineNext s → s.flight ≠ none → t.flight = none → s.ie = true → t.irq = true) ∧
    (t.ie = false → t.irq = false) ∧
    (∀ d rest, s.turns = hostWrite s 0x00C d :: rest → d.getLsbD 1 = true → t.irq = false) ∧
    (∀ d rest, s.turns = hostWrite s 0x008 d :: rest → d.getLsbD 0 = true → d.getLsbD 1 = false → d.getLsbD 2 = false →
      s.done = true → t.irq = true)

/-- R240: a hardware reset gives the block the state of R241: every CSR at its reset value, no command, every BR word
unwritten (what the words hold is not said); the instance stays, and a recorded model fault stays, which is the model's
choice (R202; log 12). -/
def Obligations.HardwareResetActs : Prop :=
  ∀ (s : State) (rest : List Turn), s.turns = .hardReset :: rest →
    ∃ t, step s = .next t ∧ sameBlock { State.resetOf s.cfg with br := t.br } t ∧
      (∀ r, (t.reg r).length = s.cfg.ww ∧ ∀ w ∈ t.reg r, w.wr = false) ∧ t.irq = false ∧ t.fault = s.fault ∧
      t.turns = rest ∧ sameDraws s t

/-! ## The accept step -/

/-- R24, R47, R203 (a): the accept step of a legal command with an unwritten source word records UnwrittenRead for such a
word (if nothing was recorded before, log 5), starts nothing and completes nothing; the read-back and the cleared status
stand. -/
def Obligations.UnwrittenSourceStartsNothing : Prop :=
  ∀ (s : State) (i : Instr), s.flight = none → i.wellFormed = true → ¬ sourcesWritten s i →
    ∃ t r j, exec i s = .next t ∧ r ∈ sourcesOf i ∧ j < (s.reg r).length ∧ (s.word r j).wr = false ∧
      t.fault = some (s.fault.getD (.unwrittenRead r j)) ∧ t.flight = none ∧ t.done = false ∧ t.err = .noError ∧
      t.prime = false ∧ t.cmdLast = encode i ∧ sameRegsBut [] s t ∧ t.ovr = s.ovr ∧ t.candcnt = s.candcnt ∧
      sameDraws s t ∧ sameControl s t

/-- R161: MODEXP's accept check: with M = 0 it completes with ERR_MOD_ZERO; otherwise it is in flight with the latched B, E
and M. -/
def Obligations.ModexpAccepts : Prop :=
  ∀ (s : State) (rd rs1 rs2 rs3 : Reg), s.flight = none → sourcesWritten s (.modexp rd rs1 rs2 rs3) →
    ∃ t, exec (.modexp rd rs1 rs2 rs3) s = .next t ∧ sameRegsBut [] s t ∧
      (s.uval rs3 = 0 → completed t .modZero false) ∧
      (s.uval rs3 ≠ 0 → t.busy = true ∧
        t.flight = some (.modexp rd rs1 rs2 rs3 (s.uval rs1) (s.uval rs2) (s.uval rs3)))

/-- R168, R170 (a): the same accept check for MODMUL. -/
def Obligations.ModmulAccepts : Prop :=
  ∀ (s : State) (rd rs1 rs2 rs3 : Reg), s.flight = none → sourcesWritten s (.modmul rd rs1 rs2 rs3) →
    ∃ t, exec (.modmul rd rs1 rs2 rs3) s = .next t ∧ sameRegsBut [] s t ∧
      (s.uval rs3 = 0 → completed t .modZero false) ∧
      (s.uval rs3 ≠ 0 → t.busy = true ∧
        t.flight = some (.modmul rd rs1 rs2 rs3 (s.uval rs1) (s.uval rs2) (s.uval rs3)))

/-- R182, R181: EGCD's accept step latches a and b, read as S says, and sets BUSY, for every operand value. -/
def Obligations.EgcdAccepts : Prop :=
  ∀ (s : State) (rd rd2 rd3 rs1 rs2 : Reg) (sgn : Bool), s.flight = none →
    Instr.wellFormed (.egcd rd rd2 rd3 rs1 rs2 sgn) = true → sourcesWritten s (.egcd rd rd2 rd3 rs1 rs2 sgn) →
    ∃ t, exec (.egcd rd rd2 rd3 rs1 rs2 sgn) s = .next t ∧ t.busy = true ∧ sameRegsBut [] s t ∧
      t.flight = some (.egcd rd rd2 rd3 rs1 rs2 sgn (operandOf s sgn rs1) (operandOf s sgn rs2))

/-- R121: PTEST's accept check: ROUNDS = 0 or n < 3 completes with ERR_OPERAND; otherwise n is in flight with no rounds, no
draws and nothing seen. -/
def Obligations.PtestAccepts : Prop :=
  ∀ (s : State) (rs1 : Reg), s.flight = none → sourcesWritten s (.ptest rs1) →
    ∃ t, exec (.ptest rs1) s = .next t ∧ sameRegsBut [] s t ∧
      (s.rounds = 0 ∨ s.uval rs1 < 3 → completed t .operand false) ∧
      (¬ (s.rounds = 0 ∨ s.uval rs1 < 3) → t.busy = true ∧
        t.flight = some (.ptest rs1 { n := s.uval rs1, rounds := 0, draws := 0, seen := [] }))

/-- R131: PGEN's accept check: ROUNDS = 0, BITS < 2 or BITS > W completes with ERR_OPERAND and leaves CANDCNT; otherwise it is
in flight with no candidate. -/
def Obligations.PgenAccepts : Prop :=
  ∀ (s : State) (rd : Reg) (bits : BitVec 16), s.flight = none →
    ∃ t, exec (.pgen rd bits) s = .next t ∧ sameRegsBut [] s t ∧ t.candcnt = s.candcnt ∧
      (s.rounds = 0 ∨ bits.toNat < 2 ∨ s.cfg.w < bits.toNat → completed t .operand false) ∧
      (¬ (s.rounds = 0 ∨ bits.toNat < 2 ∨ s.cfg.w < bits.toNat) → t.busy = true ∧
        t.flight = some (.pgen rd bits 0 .needCandidate))

/-- R47, R254: the accept step keeps the word for read-back and clears PRIME, and then one of three: the command is in flight;
it is already complete with an error, so DONE = 1 and BUSY = 0; or it is legal with an unwritten source word, and then a
model fault is recorded and it neither starts nor completes. -/
def Obligations.AcceptStartsOrCompletes : Prop :=
  ∀ (s t : State) (i : Instr), s.flight = none → exec i s = .next t →
    t.cmdLast = encode i ∧ t.prime = false ∧
      ((∃ f, t.flight = some f ∧ f.instr = i ∧ t.done = false ∧ t.err = .noError) ∨
        (t.flight = none ∧ t.done = true ∧ t.err ≠ .noError) ∨
        (t.flight = none ∧ t.done = false ∧ t.err = .noError ∧ i.wellFormed = true ∧ t.fault ≠ none ∧
          ¬ sourcesWritten s i))

/-! ## Results -/

/-- R162, R15: MODEXP's engine step writes the exact power B^E mod M, in [0, M), to the whole of BR[RD], and completes. -/
def Obligations.ModexpComputesThePower : Prop :=
  ∀ (s : State) (rd rs1 rs2 rs3 : Reg) (b e m : Nat), s.Inv → s.flight = some (.modexp rd rs1 rs2 rs3 b e m) →
    ∃ t, exec (.modexp rd rs1 rs2 rs3) s = .next t ∧ t.uval rd = b ^ e % m ∧ t.uval rd < m ∧ wholeWritten t rd ∧
      completed t .noError false

/-- R47, R160, R162: MODEXP from issue to result: two steps of exec take an idle machine to BR[RD] = B^E mod M of the
register values at issue, whatever registers coincide. -/
def Obligations.ModexpFromIssueToResult : Prop :=
  ∀ (s : State) (rd rs1 rs2 rs3 : Reg), s.Inv → s.flight = none → sourcesWritten s (.modexp rd rs1 rs2 rs3) →
    s.uval rs3 ≠ 0 →
    ∃ s' t, exec (.modexp rd rs1 rs2 rs3) s = .next s' ∧ exec (.modexp rd rs1 rs2 rs3) s' = .next t ∧
      t.uval rd = s.uval rs1 ^ s.uval rs2 % s.uval rs3 ∧ (∀ r, r ≠ rd → t.reg r = s.reg r) ∧ completed t .noError false

/-- R163: the two special cases: a modulus of 1 gives 0 for every base and exponent; an exponent of 0 gives 1 for every base
and every modulus above 1. -/
def Obligations.ModexpSpecialCases : Prop :=
  ∀ (s : State) (rd rs1 rs2 rs3 : Reg) (b e m : Nat), s.Inv → s.flight = some (.modexp rd rs1 rs2 rs3 b e m) →
    ∃ t, exec (.modexp rd rs1 rs2 rs3) s = .next t ∧ completed t .noError false ∧ (m = 1 → t.uval rd = 0) ∧
      (e = 0 → 1 < m → t.uval rd = 1)

/-- R168, R169, R170: MODMUL's engine step writes the exact residue (A*B) mod M, for every M >= 1, and completes. -/
def Obligations.ModmulComputesTheProduct : Prop :=
  ∀ (s : State) (rd rs1 rs2 rs3 : Reg) (a b m : Nat), s.Inv → s.flight = some (.modmul rd rs1 rs2 rs3 a b m) →
    ∃ t, exec (.modmul rd rs1 rs2 rs3) s = .next t ∧ t.uval rd = a * b % m ∧ wholeWritten t rd ∧
      completed t .noError false

/-- R183, R184, R185: Euclid's run ends for all operands; EGCD's engine step writes its results g, X, Y, read back as R185
says, if they fit, and otherwise (in any state with such a command in flight) completes with ERR_RANGE and writes nothing. -/
def Obligations.EgcdFollowsTheRecurrence : Prop :=
  (∀ a b : Int, ∃ g x y, EuclidRun a b 1 0 0 1 (g, x, y)) ∧
  ∀ (s : State) (rd rd2 rd3 rs1 rs2 : Reg) (sgn : Bool) (a b g x y : Int),
    s.flight = some (.egcd rd rd2 rd3 rs1 rs2 sgn a b) → EuclidRun a b 1 0 0 1 (g, x, y) →
    (s.Inv → egcdFits s.cfg.w sgn g x y → ∃ t, exec (.egcd rd rd2 rd3 rs1 rs2 sgn) s = .next t ∧
      readBack t sgn rd = g ∧ t.sval rd2 = x ∧ t.sval rd3 = y ∧ wholeWritten t rd ∧ wholeWritten t rd2 ∧
      wholeWritten t rd3 ∧ completed t .noError false) ∧
    (¬ egcdFits s.cfg.w sgn g x y → ∃ t, exec (.egcd rd rd2 rd3 rs1 rs2 sgn) s = .next t ∧ sameRegsBut [] s t ∧
      completed t .range false)

/-- R186: whenever EGCD completes with ERR = 0, a*X + b*Y = g, |g| is the gcd, and g >= 0 with S = 0; with S = 1 it may be
negative, as for (4, -6). -/
def Obligations.EgcdGivesBezout : Prop :=
  (∀ (s t : State) (rd rd2 rd3 rs1 rs2 : Reg) (sgn : Bool) (a b : Int), s.Inv →
    s.flight = some (.egcd rd rd2 rd3 rs1 rs2 sgn a b) → exec (.egcd rd rd2 rd3 rs1 rs2 sgn) s = .next t →
    t.err = .noError →
    a * t.sval rd2 + b * t.sval rd3 = readBack t sgn rd ∧ (readBack t sgn rd).natAbs = Int.gcd a b ∧
      (sgn = false → 0 ≤ readBack t sgn rd)) ∧
  ∃ x y, EuclidRun 4 (-6) 1 0 0 1 (-2, x, y)

/-- R185 leaves open whether ERR_RANGE can arise: this says that it never does, at any width of R6 and in both modes. -/
def Obligations.EgcdNeverRaisesRange : Prop :=
  ∀ (s t : State) (rd rd2 rd3 rs1 rs2 : Reg) (sgn : Bool) (a b : Int), s.Inv →
    s.flight = some (.egcd rd rd2 rd3 rs1 rs2 sgn a b) → exec (.egcd rd rd2 rd3 rs1 rs2 sgn) s = .next t →
    t.err = .noError

/-! ## Primality -/

/-- R9, R82: a draw answers FAIL or a value of its range, and counts one draw; every value of the range and FAIL can be the
answer. -/
def Obligations.DrawsAreFreeInTheirRange : Prop :=
  ∀ (s : State) (lo hi : Nat), lo ≤ hi →
    ((s.draw lo hi).1 = none ∨ ∃ v, (s.draw lo hi).1 = some v ∧ lo ≤ v ∧ v ≤ hi) ∧
    (s.draw lo hi).2 = { s with entropy := s.entropy.tail, drawIdx := s.drawIdx + 1 } ∧
    (∀ v, lo ≤ v → v ≤ hi → (State.draw { s with entropy := [some v] } lo hi).1 = some v) ∧
    (State.draw { s with entropy := [none] } lo hi).1 = none

/-- R123 to R128: every branch of PTEST's engine step, by the draw it makes: the ceiling, FAIL, a skipped odd seen base, a
failing base, the last passing base, another passing base. -/
def Obligations.PtestStepBranches : Prop :=
  ∀ (s : State) (rs1 : Reg) (p : TestProgress), s.flight = some (.ptest rs1 p) →
    (p.draws = s.drawlim.toNat → ∃ t, exec (.ptest rs1) s = .next t ∧ completed t .exhausted false ∧ sameDraws s t) ∧
    (p.draws ≠ s.drawlim.toNat →
      ((s.draw 2 (p.n - 1)).1 = none → ∃ t, exec (.ptest rs1) s = .next t ∧ completed t .entropy false) ∧
      ∀ a, (s.draw 2 (p.n - 1)).1 = some a → ∃ t, exec (.ptest rs1) s = .next t ∧ t.drawIdx = s.drawIdx + 1 ∧
        (a ∈ p.seen ∧ a % 2 = 1 → t.flight = some (.ptest rs1 { p with draws := p.draws + 1 })) ∧
        (¬ (a ∈ p.seen ∧ a % 2 = 1) →
          (a ^ (p.n - 1) % p.n ≠ 1 → completed t .noError false) ∧
          (a ^ (p.n - 1) % p.n = 1 →
            (p.rounds + 1 = s.rounds.toNat → completed t .noError true) ∧
            (p.rounds + 1 ≠ s.rounds.toNat → ∃ q, t.flight = some (.ptest rs1 q) ∧ q.n = p.n ∧
              q.rounds = p.rounds + 1 ∧ q.draws = p.draws + 1 ∧ ∀ x, x ∈ q.seen ↔ x = a ∨ x ∈ p.seen))))

/-- R129 (a): PTEST of a prime never answers 'composite'. -/
def Obligations.PtestNeverRejectsAPrime : Prop :=
  ∀ (s t : State) (rs1 : Reg) (p : TestProgress), s.Inv → s.flight = some (.ptest rs1 p) → p.n.Prime →
    exec (.ptest rs1) s = .next t → t.flight = none → t.err = .noError → t.prime = true

/-- R256: a PTEST in flight, left to the engine, completes within DRAWLIM + 1 engine steps, whatever the draws. -/
def Obligations.PtestTerminates : Prop :=
  ∀ (s : State) (rs1 : Reg) (p : TestProgress), s.Inv → s.fault = none → s.turns = [] →
    s.flight = some (.ptest rs1 p) →
    ∃ k ≤ s.drawlim.toNat + 1, ∃ t, core.run k s = .next t ∧ t.flight = none ∧ t.done = true

/-- R256: a PGEN in flight, left to the engine, completes within RETRY * (DRAWLIM + 1) + 1 engine steps, whatever the draws. -/
def Obligations.PgenTerminates : Prop :=
  ∀ (s : State) (rd : Reg) (bits : BitVec 16) (cand : Nat) (ph : GenPhase), s.Inv → s.fault = none → s.turns = [] →
    s.flight = some (.pgen rd bits cand ph) →
    ∃ k ≤ s.retry.toNat * (s.drawlim.toNat + 1) + 1, ∃ t, core.run k s = .next t ∧ t.flight = none ∧ t.done = true

/-- R132, R133, R136, R37: PGEN's engine step for a candidate: at the RETRY ceiling ERR_EXHAUSTED without a draw; below it one
draw over [0, 2^BITS - 1]: FAIL completes with ERR_ENTROPY, the failed draw counted in CANDCNT; a value makes the odd
BITS-bit candidate r OR 2^(BITS-1) OR 1, with its test not begun. With DRAWLIM = 0 the step that made a candidate completes
with ERR_EXHAUSTED, as R37 says; that the two are one step is the model's reading (log 15). -/
def Obligations.PgenCandidateStepBranches : Prop :=
  ∀ (s : State) (rd : Reg) (bits : BitVec 16) (cand : Nat), s.Inv →
    s.flight = some (.pgen rd bits cand .needCandidate) →
    ∃ t, exec (.pgen rd bits) s = .next t ∧ sameRegsBut [] s t ∧
      (cand = s.retry.toNat → completed t .exhausted false ∧ t.candcnt.toNat = cand ∧ sameDraws s t) ∧
      (cand ≠ s.retry.toNat → t.drawIdx = s.drawIdx + 1 ∧
        ((s.draw 0 (2 ^ bits.toNat - 1)).1 = none → completed t .entropy false ∧ t.candcnt.toNat = cand + 1) ∧
        ∀ r, (s.draw 0 (2 ^ bits.toNat - 1)).1 = some r →
          (s.drawlim = 0 → completed t .exhausted false ∧ t.candcnt.toNat = cand + 1) ∧
          (s.drawlim ≠ 0 → ∃ n, t.candcnt = s.candcnt ∧
            t.flight = some (.pgen rd bits (cand + 1) (.testing { n := n, rounds := 0, draws := 0, seen := [] })) ∧
            n = r ||| 2 ^ (bits.toNat - 1) ||| 1 ∧ n % 2 = 1 ∧ 2 ^ (bits.toNat - 1) ≤ n ∧ n < 2 ^ bits.toNat))

/-- R134 to R136: PGEN's engine step in the testing phase, by the draw: the ceiling and FAIL end the command with CANDCNT
written; a skipped base only counts as a draw; a failing base goes
back for a new candidate, STATUS unchanged; the last passing base writes the candidate; another passing base is a round. -/
def Obligations.PgenTestStepBranches : Prop :=
  ∀ (s : State) (rd : Reg) (bits : BitVec 16) (cand : Nat) (p : TestProgress), s.Inv →
    s.flight = some (.pgen rd bits cand (.testing p)) →
    ∃ t, exec (.pgen rd bits) s = .next t ∧
      (p.draws = s.drawlim.toNat → completed t .exhausted false ∧ t.candcnt.toNat = cand ∧ sameRegsBut [] s t) ∧
      (p.draws ≠ s.drawlim.toNat →
        ((s.draw 2 (p.n - 1)).1 = none → completed t .entropy false ∧ t.candcnt.toNat = cand ∧ sameRegsBut [] s t) ∧
        ∀ a, (s.draw 2 (p.n - 1)).1 = some a →
          (a ∈ p.seen ∧ a % 2 = 1 →
            t.flight = some (.pgen rd bits cand (.testing { p with draws := p.draws + 1 })) ∧ sameRegsBut [] s t) ∧
          (¬ (a ∈ p.seen ∧ a % 2 = 1) →
            (a ^ (p.n - 1) % p.n ≠ 1 → t.flight = some (.pgen rd bits cand .needCandidate) ∧ t.done = s.done ∧
              t.err = s.err ∧ t.prime = s.prime ∧ t.ovr = s.ovr ∧ t.candcnt = s.candcnt ∧ sameRegsBut [] s t) ∧
            (a ^ (p.n - 1) % p.n = 1 →
              (p.rounds + 1 = s.rounds.toNat → completed t .noError true ∧ t.uval rd = p.n ∧ wholeWritten t rd ∧
                t.candcnt.toNat = cand) ∧
              (p.rounds + 1 ≠ s.rounds.toNat → ∃ q, t.flight = some (.pgen rd bits cand (.testing q)) ∧ q.n = p.n ∧
                q.rounds = p.rounds + 1 ∧ q.draws = p.draws + 1 ∧ (∀ x, x ∈ q.seen ↔ x = a ∨ x ∈ p.seen) ∧
                sameRegsBut [] s t))))

/-- R137 (a): whenever an engine step of PGEN succeeds, BR[RD] holds an odd number of exactly BITS significant bits, PRIME
is 1, and a base passes for that number in this step, which brings its count of passed rounds to ROUNDS. -/
def Obligations.PgenResultHasTheBits : Prop :=
  ∀ (s t : State) (rd : Reg) (bits : BitVec 16) (cand : Nat) (ph : GenPhase), s.Inv →
    s.flight = some (.pgen rd bits cand ph) → exec (.pgen rd bits) s = .next t → t.flight = none → t.err = .noError →
    t.prime = true ∧ t.uval rd % 2 = 1 ∧ 2 ^ (bits.toNat - 1) ≤ t.uval rd ∧ t.uval rd < 2 ^ bits.toNat ∧
      ∃ p a, ph = .testing p ∧ p.n = t.uval rd ∧ p.rounds + 1 = s.rounds.toNat ∧
        (s.draw 2 (p.n - 1)).1 = some a ∧ a ^ (p.n - 1) % p.n = 1

/-! ## Frames -/

/-- R97, R160, R168, R25, R201: the frame of MODEXP and MODMUL, at accept, at completion and at a dropped issue: only BR[RD]
may change; CANDCNT and the entropy port are untouched. -/
def Obligations.FrameOfModexpAndModmul : Prop :=
  ∀ (s t : State) (i : Instr) (rd rs1 rs2 rs3 : Reg), (i = .modexp rd rs1 rs2 rs3 ∨ i = .modmul rd rs1 rs2 rs3) →
    exec i s = .next t → commandFrame i s t ∧ t.candcnt = s.candcnt ∧ sameDraws s t

/-- R97, R180, R185: the frame of EGCD: only BR[RD], BR[RD2] and BR[RD3] may change. -/
def Obligations.FrameOfEgcd : Prop :=
  ∀ (s t : State) (rd rd2 rd3 rs1 rs2 : Reg) (sgn : Bool), exec (.egcd rd rd2 rd3 rs1 rs2 sgn) s = .next t →
    commandFrame (.egcd rd rd2 rd3 rs1 rs2 sgn) s t ∧ t.candcnt = s.candcnt ∧ sameDraws s t

/-- R97, R120: the frame of PTEST: no BR and not CANDCNT; a step makes at most one draw, and none at accept. -/
def Obligations.FrameOfPtest : Prop :=
  ∀ (s t : State) (rs1 : Reg), exec (.ptest rs1) s = .next t →
    commandFrame (.ptest rs1) s t ∧ t.candcnt = s.candcnt ∧
      (sameDraws s t ∨ s.flight ≠ none ∧ t.drawIdx = s.drawIdx + 1 ∧ t.entropy = s.entropy.tail)

/-- R97, R130, R134 to R136: the frame of PGEN: BR[RD] changes only with PRIME set; CANDCNT only where the command ends; a
step makes at most one draw, and none at accept. -/
def Obligations.FrameOfPgen : Prop :=
  ∀ (s t : State) (rd : Reg) (bits : BitVec 16), exec (.pgen rd bits) s = .next t →
    commandFrame (.pgen rd bits) s t ∧ (t.reg rd ≠ s.reg rd → completed t .noError true) ∧
      (t.candcnt ≠ s.candcnt → s.flight ≠ none ∧ t.flight = none) ∧
      (sameDraws s t ∨ s.flight ≠ none ∧ t.drawIdx = s.drawIdx + 1 ∧ t.entropy = s.entropy.tail)

/-- The model's choice of log 9, after R34 and R66: exec of a command while another is in flight is its dropped issue, OVR
set and nothing else. -/
def Obligations.ExecWhileAnotherRunsIsDropped : Prop :=
  ∀ (s : State) (i : Instr) (f : InFlight), s.flight = some f → f.instr ≠ i →
    exec i s = .next { s with ovr := true }

/-! ## Whole-machine rules -/

/-- R22, R25, R45: a BR changes only by a host write of one of its words while idle, by the engine step that completes a
command with ERR = NONE and names it as a destination, or by a hardware reset. -/
def Obligations.WhoWritesABigRegister : Prop :=
  ∀ (s t : State) (r : Reg), step s = .next t → t.reg r ≠ s.reg r →
    (∃ a rest j, s.turns = .host a :: rest ∧ a.write = true ∧ s.flight = none ∧ j < s.cfg.ww ∧
      a.addr = s.cfg.base + brOffset r j) ∨
    (∃ f, engineNext s ∧ s.flight = some f ∧ r ∈ destinationsOf f.instr ∧ t.flight = none ∧ t.done = true ∧
      t.err = .noError) ∨
    ∃ rest, s.turns = .hardReset :: rest

/-- R202, R48: a recorded model fault stays through every step, whoever moves, and the engine then has no step: its turn
changes nothing. Three parts of it are the model's choice: the fault stays through a hardware reset (log 12), the first of
two faults is the one kept (log 5), and where no turn is named the engine moves, a turn without a step leaving the machine
as it is (log 2). -/
def Obligations.ModelFaultsAreSticky : Prop :=
  ∀ (s : State) (f : FaultReason), s.fault = some f →
    (∀ t, step s = .next t → t.fault = some f) ∧ (engineNext s → step s = .next (s.withTurns s.turns.tail))

/-- R42, R31: no step changes the instance (held in the state, log 1), so PARAM reads one value for ever. -/
def Obligations.InstanceIsConstant : Prop := ∀ s t : State, step s = .next t → t.cfg = s.cfg

/-- R24: the contents of unwritten BR words are seen by nothing: two states that differ in them alone step to states that
again differ in them alone. -/
def Obligations.UnwrittenContentsAreInvisible : Prop :=
  ∀ s s' : State, sameButUnwritten s s' →
    ∃ t t', step s = .next t ∧ step s' = .next t' ∧ sameButUnwritten t t'

/-- R38, R136: CANDCNT changes only where a PGEN in flight ends, at a soft reset and at a hardware reset. -/
def Obligations.WhoWritesCandcnt : Prop :=
  ∀ s t : State, step s = .next t → t.candcnt ≠ s.candcnt →
    (∃ rd bits cand ph, s.flight = some (.pgen rd bits cand ph) ∧ t.flight = none) ∨
    (∃ d rest, s.turns = hostWrite s 0x008 d :: rest ∧ d.getLsbD 2 = true) ∨ ∃ rest, s.turns = .hardReset :: rest

/-- R33, R66: OVR is set only by a host write while BUSY, and cleared only by a STATUS write with bit 3 set, a soft reset or
a hardware reset. -/
def Obligations.WhoChangesOvr : Prop :=
  ∀ s t : State, step s = .next t →
    (s.ovr = false → t.ovr = true → s.flight ≠ none ∧ ∃ a rest, s.turns = .host a :: rest ∧ a.write = true) ∧
    (s.ovr = true → t.ovr = false →
      (∃ d rest, s.turns = hostWrite s 0x00C d :: rest ∧ d.getLsbD 3 = true) ∨
      (∃ d rest, s.turns = hostWrite s 0x008 d :: rest ∧ d.getLsbD 2 = true) ∨ ∃ rest, s.turns = .hardReset :: rest)

/-- R33, R128, R134: PRIME is set only by the engine step that completes a PTEST or a PGEN with ERR = NONE. -/
def Obligations.WhoSetsPrime : Prop :=
  ∀ s t : State, step s = .next t → s.prime = false → t.prime = true →
    engineNext s ∧ completed t .noError true ∧
      ∃ f, s.flight = some f ∧ ((∃ rs1, f.instr = .ptest rs1) ∨ ∃ rd bits, f.instr = .pgen rd bits)

/-- R79, R47: no host access changes a command in flight or its limits; it can only end it, by a CTRL write with ABORT or
SRST set. -/
def Obligations.HostCannotChangeAFlight : Prop :=
  ∀ (s t : State) (a : Access) (rest : List Turn) (f : InFlight), s.turns = .host a :: rest → s.flight = some f →
    step s = .next t →
    (t.flight = some f ∧ t.rounds = s.rounds ∧ t.retry = s.retry ∧ t.drawlim = s.drawlim ∧ t.cmdLast = s.cmdLast) ∨
    (t.flight = none ∧ a.write = true ∧ a.addr = s.cfg.base + 0x008 ∧
      (a.wdata.getLsbD 1 = true ∨ a.wdata.getLsbD 2 = true))

/-! ## The draw ceiling 0 -/

/-- R37, R125, R127, R133: with DRAWLIM = 0 an engine step of a PTEST or a PGEN in flight, the first among them, completes
with ERR_EXHAUSTED, without a base draw and without a write of a BR. A PGEN's step below RETRY draws a candidate first (R133)
and counts it: FAIL then completes with ERR_ENTROPY. That the candidate's draw and R37's completion are one step is the
model's reading (log 15). -/
def Obligations.DrawlimZeroExhausts : Prop :=
  ∀ (s : State) (f : InFlight), s.Inv → s.drawlim = 0 → s.flight = some f →
    (∃ rs1, f.instr = .ptest rs1) ∨ (∃ rd bits, f.instr = .pgen rd bits) →
    ∃ t, exec f.instr s = .next t ∧ sameRegsBut [] s t ∧
      (∀ rd bits cand, f = .pgen rd bits cand .needCandidate → cand ≠ s.retry.toNat →
        t.drawIdx = s.drawIdx + 1 ∧ t.candcnt.toNat = cand + 1 ∧
          completed t (if (s.draw 0 (2 ^ bits.toNat - 1)).1 = none then .entropy else .exhausted) false) ∧
      ((∀ rd bits cand, f = .pgen rd bits cand .needCandidate → cand = s.retry.toNat) →
        completed t .exhausted false ∧ sameDraws s t ∧
          ∀ rd bits cand ph, f = .pgen rd bits cand ph → t.candcnt.toNat = cand)

/-! ## The machine goes on -/

/-- R11, R48, R202, R204: no step stops the machine: every turn, of every command and every host access, in every state,
answers a next state. Two parts of it are the model's choice: an engine turn with no enabled step answers the same block
(log 2), and with a fault recorded the host goes on and no step answers a fault (log 5). -/
def Obligations.EveryStepAnswersANextState : Prop := ∀ s : State, ∃ t, step s = .next t

end
end

