-- ==== Sys2Proof/Laws/Encoding.lean ====
section
/-! SUPPORT. The two formats bit by bit, as the tables of R91 and R92 give them, and what a row's test says. -/

namespace Sys2Proof

/-- The bits of a format R word (R91). -/
theorem formatR_getLsbD (op : BitVec 4) (rd rs1 rs2 rs3 rd2 rd3 : Reg) (sgn : Bool) {i : Nat} (h : i < 32) :
    (formatR op rd rs1 rs2 rs3 rd2 rd3 sgn).getLsbD i =
      if i < 4 then op.getLsbD i else if i < 7 then rd.getLsbD (i - 4) else if i < 8 then false
      else if i < 11 then rs1.getLsbD (i - 8) else if i < 12 then false
      else if i < 15 then rs2.getLsbD (i - 12) else if i < 16 then false
      else if i < 19 then rs3.getLsbD (i - 16) else if i < 20 then false
      else if i < 23 then rd2.getLsbD (i - 20) else if i < 24 then false
      else if i < 27 then rd3.getLsbD (i - 24) else if i < 28 then false
      else if i < 29 then sgn else false := by
  unfold formatR
  simp only [BitVec.getLsbD_append]
  interval_cases i <;> simp

/-- The bits of a format I word (R92). -/
theorem formatI_getLsbD (op : BitVec 4) (rd : Reg) (imm : BitVec 16) {i : Nat} (h : i < 32) :
    (formatI op rd imm).getLsbD i =
      if i < 4 then op.getLsbD i else if i < 7 then rd.getLsbD (i - 4) else if i < 16 then false
      else imm.getLsbD (i - 16) := by
  unfold formatI
  simp only [BitVec.getLsbD_append]
  interval_cases i <;> simp

/-- The bits of a register field (R91, R92). -/
theorem regField_getLsbD (lo : Nat) (c : Word) {i : Nat} (h : i < 3) : (regField lo c).getLsbD i = c.getLsbD (lo + i) := by
  simp [regField, h]

/-- A word passes a row's test exactly where it has the pattern's bit at every bit of the mask (R99). -/
theorem matchesRow_iff (mask pat c : Word) :
    matchesRow mask pat c = true ↔ ∀ i < 32, (c.getLsbD i && mask.getLsbD i) = pat.getLsbD i := by
  rw [matchesRow, beq_iff_eq]
  constructor
  · rintro rfl i -; exact (BitVec.getLsbD_and ..).symm
  · intro h
    apply BitVec.eq_of_getLsbD_eq
    intro i hi
    rw [BitVec.getLsbD_and]; exact h i hi

/-- What a row answers: a word off the pattern, fields that aliased, or the instruction. -/
theorem rowInstr_eq_ok {mask pat c : Word} {i j : Instr} :
    rowInstr mask pat c i = .ok j ↔ matchesRow mask pat c = true ∧ i.wellFormed = true ∧ i = j := by
  unfold rowInstr
  cases matchesRow mask pat c <;> cases i.wellFormed <;> simp

end Sys2Proof
end

