-- ==== Sys2Proof/Laws/State.lean ====
section
/-! SUPPORT. One lemma per field per update of State, true by rfl, so that no proof unfolds a record update. -/

namespace Sys2Proof.Machine

variable (s : State)

/-! complete -/

@[simp] theorem State.complete_cfg (e : ErrCode) (p : Bool) : (s.complete e p).cfg = s.cfg := rfl
@[simp] theorem State.complete_br (e : ErrCode) (p : Bool) : (s.complete e p).br = s.br := rfl
@[simp] theorem State.complete_ie (e : ErrCode) (p : Bool) : (s.complete e p).ie = s.ie := rfl
@[simp] theorem State.complete_done (e : ErrCode) (p : Bool) : (s.complete e p).done = true := rfl
@[simp] theorem State.complete_prime (e : ErrCode) (p : Bool) : (s.complete e p).prime = p := rfl
@[simp] theorem State.complete_ovr (e : ErrCode) (p : Bool) : (s.complete e p).ovr = s.ovr := rfl
@[simp] theorem State.complete_err (e : ErrCode) (p : Bool) : (s.complete e p).err = e := rfl
@[simp] theorem State.complete_cmdLast (e : ErrCode) (p : Bool) : (s.complete e p).cmdLast = s.cmdLast := rfl
@[simp] theorem State.complete_rounds (e : ErrCode) (p : Bool) : (s.complete e p).rounds = s.rounds := rfl
@[simp] theorem State.complete_retry (e : ErrCode) (p : Bool) : (s.complete e p).retry = s.retry := rfl
@[simp] theorem State.complete_drawlim (e : ErrCode) (p : Bool) : (s.complete e p).drawlim = s.drawlim := rfl
@[simp] theorem State.complete_candcnt (e : ErrCode) (p : Bool) : (s.complete e p).candcnt = s.candcnt := rfl
@[simp] theorem State.complete_flight (e : ErrCode) (p : Bool) : (s.complete e p).flight = none := rfl
@[simp] theorem State.complete_fault (e : ErrCode) (p : Bool) : (s.complete e p).fault = s.fault := rfl
@[simp] theorem State.complete_resp (e : ErrCode) (p : Bool) : (s.complete e p).resp = s.resp := rfl
@[simp] theorem State.complete_turns (e : ErrCode) (p : Bool) : (s.complete e p).turns = s.turns := rfl
@[simp] theorem State.complete_entropy (e : ErrCode) (p : Bool) : (s.complete e p).entropy = s.entropy := rfl
@[simp] theorem State.complete_drawIdx (e : ErrCode) (p : Bool) : (s.complete e p).drawIdx = s.drawIdx := rfl
@[simp] theorem State.complete_freeIdx (e : ErrCode) (p : Bool) : (s.complete e p).freeIdx = s.freeIdx := rfl

/-! launch -/

@[simp] theorem State.launch_cfg (f : InFlight) : (s.launch f).cfg = s.cfg := rfl
@[simp] theorem State.launch_br (f : InFlight) : (s.launch f).br = s.br := rfl
@[simp] theorem State.launch_ie (f : InFlight) : (s.launch f).ie = s.ie := rfl
@[simp] theorem State.launch_done (f : InFlight) : (s.launch f).done = s.done := rfl
@[simp] theorem State.launch_prime (f : InFlight) : (s.launch f).prime = s.prime := rfl
@[simp] theorem State.launch_ovr (f : InFlight) : (s.launch f).ovr = s.ovr := rfl
@[simp] theorem State.launch_err (f : InFlight) : (s.launch f).err = s.err := rfl
@[simp] theorem State.launch_cmdLast (f : InFlight) : (s.launch f).cmdLast = s.cmdLast := rfl
@[simp] theorem State.launch_rounds (f : InFlight) : (s.launch f).rounds = s.rounds := rfl
@[simp] theorem State.launch_retry (f : InFlight) : (s.launch f).retry = s.retry := rfl
@[simp] theorem State.launch_drawlim (f : InFlight) : (s.launch f).drawlim = s.drawlim := rfl
@[simp] theorem State.launch_candcnt (f : InFlight) : (s.launch f).candcnt = s.candcnt := rfl
@[simp] theorem State.launch_flight (f : InFlight) : (s.launch f).flight = some f := rfl
@[simp] theorem State.launch_fault (f : InFlight) : (s.launch f).fault = s.fault := rfl
@[simp] theorem State.launch_resp (f : InFlight) : (s.launch f).resp = s.resp := rfl
@[simp] theorem State.launch_turns (f : InFlight) : (s.launch f).turns = s.turns := rfl
@[simp] theorem State.launch_entropy (f : InFlight) : (s.launch f).entropy = s.entropy := rfl
@[simp] theorem State.launch_drawIdx (f : InFlight) : (s.launch f).drawIdx = s.drawIdx := rfl
@[simp] theorem State.launch_freeIdx (f : InFlight) : (s.launch f).freeIdx = s.freeIdx := rfl

/-! withTurns -/

@[simp] theorem State.withTurns_cfg (ts : List Turn) : (s.withTurns ts).cfg = s.cfg := rfl
@[simp] theorem State.withTurns_br (ts : List Turn) : (s.withTurns ts).br = s.br := rfl
@[simp] theorem State.withTurns_ie (ts : List Turn) : (s.withTurns ts).ie = s.ie := rfl
@[simp] theorem State.withTurns_done (ts : List Turn) : (s.withTurns ts).done = s.done := rfl
@[simp] theorem State.withTurns_prime (ts : List Turn) : (s.withTurns ts).prime = s.prime := rfl
@[simp] theorem State.withTurns_ovr (ts : List Turn) : (s.withTurns ts).ovr = s.ovr := rfl
@[simp] theorem State.withTurns_err (ts : List Turn) : (s.withTurns ts).err = s.err := rfl
@[simp] theorem State.withTurns_cmdLast (ts : List Turn) : (s.withTurns ts).cmdLast = s.cmdLast := rfl
@[simp] theorem State.withTurns_rounds (ts : List Turn) : (s.withTurns ts).rounds = s.rounds := rfl
@[simp] theorem State.withTurns_retry (ts : List Turn) : (s.withTurns ts).retry = s.retry := rfl
@[simp] theorem State.withTurns_drawlim (ts : List Turn) : (s.withTurns ts).drawlim = s.drawlim := rfl
@[simp] theorem State.withTurns_candcnt (ts : List Turn) : (s.withTurns ts).candcnt = s.candcnt := rfl
@[simp] theorem State.withTurns_flight (ts : List Turn) : (s.withTurns ts).flight = s.flight := rfl
@[simp] theorem State.withTurns_fault (ts : List Turn) : (s.withTurns ts).fault = s.fault := rfl
@[simp] theorem State.withTurns_resp (ts : List Turn) : (s.withTurns ts).resp = s.resp := rfl
@[simp] theorem State.withTurns_turns (ts : List Turn) : (s.withTurns ts).turns = ts := rfl
@[simp] theorem State.withTurns_entropy (ts : List Turn) : (s.withTurns ts).entropy = s.entropy := rfl
@[simp] theorem State.withTurns_drawIdx (ts : List Turn) : (s.withTurns ts).drawIdx = s.drawIdx := rfl
@[simp] theorem State.withTurns_freeIdx (ts : List Turn) : (s.withTurns ts).freeIdx = s.freeIdx := rfl

/-! setIe -/

@[simp] theorem State.setIe_cfg (b : Bool) : (s.setIe b).cfg = s.cfg := rfl
@[simp] theorem State.setIe_br (b : Bool) : (s.setIe b).br = s.br := rfl
@[simp] theorem State.setIe_ie (b : Bool) : (s.setIe b).ie = b := rfl
@[simp] theorem State.setIe_done (b : Bool) : (s.setIe b).done = s.done := rfl
@[simp] theorem State.setIe_prime (b : Bool) : (s.setIe b).prime = s.prime := rfl
@[simp] theorem State.setIe_ovr (b : Bool) : (s.setIe b).ovr = s.ovr := rfl
@[simp] theorem State.setIe_err (b : Bool) : (s.setIe b).err = s.err := rfl
@[simp] theorem State.setIe_cmdLast (b : Bool) : (s.setIe b).cmdLast = s.cmdLast := rfl
@[simp] theorem State.setIe_rounds (b : Bool) : (s.setIe b).rounds = s.rounds := rfl
@[simp] theorem State.setIe_retry (b : Bool) : (s.setIe b).retry = s.retry := rfl
@[simp] theorem State.setIe_drawlim (b : Bool) : (s.setIe b).drawlim = s.drawlim := rfl
@[simp] theorem State.setIe_candcnt (b : Bool) : (s.setIe b).candcnt = s.candcnt := rfl
@[simp] theorem State.setIe_flight (b : Bool) : (s.setIe b).flight = s.flight := rfl
@[simp] theorem State.setIe_fault (b : Bool) : (s.setIe b).fault = s.fault := rfl
@[simp] theorem State.setIe_resp (b : Bool) : (s.setIe b).resp = s.resp := rfl
@[simp] theorem State.setIe_turns (b : Bool) : (s.setIe b).turns = s.turns := rfl
@[simp] theorem State.setIe_entropy (b : Bool) : (s.setIe b).entropy = s.entropy := rfl
@[simp] theorem State.setIe_drawIdx (b : Bool) : (s.setIe b).drawIdx = s.drawIdx := rfl
@[simp] theorem State.setIe_freeIdx (b : Bool) : (s.setIe b).freeIdx = s.freeIdx := rfl

/-! dropWrite -/

@[simp] theorem State.dropWrite_cfg : (s.dropWrite).cfg = s.cfg := rfl
@[simp] theorem State.dropWrite_br : (s.dropWrite).br = s.br := rfl
@[simp] theorem State.dropWrite_ie : (s.dropWrite).ie = s.ie := rfl
@[simp] theorem State.dropWrite_done : (s.dropWrite).done = s.done := rfl
@[simp] theorem State.dropWrite_prime : (s.dropWrite).prime = s.prime := rfl
@[simp] theorem State.dropWrite_ovr : (s.dropWrite).ovr = true := rfl
@[simp] theorem State.dropWrite_err : (s.dropWrite).err = s.err := rfl
@[simp] theorem State.dropWrite_cmdLast : (s.dropWrite).cmdLast = s.cmdLast := rfl
@[simp] theorem State.dropWrite_rounds : (s.dropWrite).rounds = s.rounds := rfl
@[simp] theorem State.dropWrite_retry : (s.dropWrite).retry = s.retry := rfl
@[simp] theorem State.dropWrite_drawlim : (s.dropWrite).drawlim = s.drawlim := rfl
@[simp] theorem State.dropWrite_candcnt : (s.dropWrite).candcnt = s.candcnt := rfl
@[simp] theorem State.dropWrite_flight : (s.dropWrite).flight = s.flight := rfl
@[simp] theorem State.dropWrite_fault : (s.dropWrite).fault = s.fault := rfl
@[simp] theorem State.dropWrite_resp : (s.dropWrite).resp = s.resp := rfl
@[simp] theorem State.dropWrite_turns : (s.dropWrite).turns = s.turns := rfl
@[simp] theorem State.dropWrite_entropy : (s.dropWrite).entropy = s.entropy := rfl
@[simp] theorem State.dropWrite_drawIdx : (s.dropWrite).drawIdx = s.drawIdx := rfl
@[simp] theorem State.dropWrite_freeIdx : (s.dropWrite).freeIdx = s.freeIdx := rfl

/-! beginAccept -/

@[simp] theorem State.beginAccept_cfg (c : Word) : (s.beginAccept c).cfg = s.cfg := rfl
@[simp] theorem State.beginAccept_br (c : Word) : (s.beginAccept c).br = s.br := rfl
@[simp] theorem State.beginAccept_ie (c : Word) : (s.beginAccept c).ie = s.ie := rfl
@[simp] theorem State.beginAccept_done (c : Word) : (s.beginAccept c).done = false := rfl
@[simp] theorem State.beginAccept_prime (c : Word) : (s.beginAccept c).prime = false := rfl
@[simp] theorem State.beginAccept_ovr (c : Word) : (s.beginAccept c).ovr = s.ovr := rfl
@[simp] theorem State.beginAccept_err (c : Word) : (s.beginAccept c).err = .noError := rfl
@[simp] theorem State.beginAccept_cmdLast (c : Word) : (s.beginAccept c).cmdLast = c := rfl
@[simp] theorem State.beginAccept_rounds (c : Word) : (s.beginAccept c).rounds = s.rounds := rfl
@[simp] theorem State.beginAccept_retry (c : Word) : (s.beginAccept c).retry = s.retry := rfl
@[simp] theorem State.beginAccept_drawlim (c : Word) : (s.beginAccept c).drawlim = s.drawlim := rfl
@[simp] theorem State.beginAccept_candcnt (c : Word) : (s.beginAccept c).candcnt = s.candcnt := rfl
@[simp] theorem State.beginAccept_flight (c : Word) : (s.beginAccept c).flight = s.flight := rfl
@[simp] theorem State.beginAccept_fault (c : Word) : (s.beginAccept c).fault = s.fault := rfl
@[simp] theorem State.beginAccept_resp (c : Word) : (s.beginAccept c).resp = s.resp := rfl
@[simp] theorem State.beginAccept_turns (c : Word) : (s.beginAccept c).turns = s.turns := rfl
@[simp] theorem State.beginAccept_entropy (c : Word) : (s.beginAccept c).entropy = s.entropy := rfl
@[simp] theorem State.beginAccept_drawIdx (c : Word) : (s.beginAccept c).drawIdx = s.drawIdx := rfl
@[simp] theorem State.beginAccept_freeIdx (c : Word) : (s.beginAccept c).freeIdx = s.freeIdx := rfl

/-! acceptIllegal -/

@[simp] theorem State.acceptIllegal_cfg (c : Word) : (s.acceptIllegal c).cfg = s.cfg := rfl
@[simp] theorem State.acceptIllegal_br (c : Word) : (s.acceptIllegal c).br = s.br := rfl
@[simp] theorem State.acceptIllegal_ie (c : Word) : (s.acceptIllegal c).ie = s.ie := rfl
@[simp] theorem State.acceptIllegal_done (c : Word) : (s.acceptIllegal c).done = true := rfl
@[simp] theorem State.acceptIllegal_prime (c : Word) : (s.acceptIllegal c).prime = false := rfl
@[simp] theorem State.acceptIllegal_ovr (c : Word) : (s.acceptIllegal c).ovr = s.ovr := rfl
@[simp] theorem State.acceptIllegal_err (c : Word) : (s.acceptIllegal c).err = .illegal := rfl
@[simp] theorem State.acceptIllegal_cmdLast (c : Word) : (s.acceptIllegal c).cmdLast = c := rfl
@[simp] theorem State.acceptIllegal_rounds (c : Word) : (s.acceptIllegal c).rounds = s.rounds := rfl
@[simp] theorem State.acceptIllegal_retry (c : Word) : (s.acceptIllegal c).retry = s.retry := rfl
@[simp] theorem State.acceptIllegal_drawlim (c : Word) : (s.acceptIllegal c).drawlim = s.drawlim := rfl
@[simp] theorem State.acceptIllegal_candcnt (c : Word) : (s.acceptIllegal c).candcnt = s.candcnt := rfl
@[simp] theorem State.acceptIllegal_flight (c : Word) : (s.acceptIllegal c).flight = none := rfl
@[simp] theorem State.acceptIllegal_fault (c : Word) : (s.acceptIllegal c).fault = s.fault := rfl
@[simp] theorem State.acceptIllegal_resp (c : Word) : (s.acceptIllegal c).resp = s.resp := rfl
@[simp] theorem State.acceptIllegal_turns (c : Word) : (s.acceptIllegal c).turns = s.turns := rfl
@[simp] theorem State.acceptIllegal_entropy (c : Word) : (s.acceptIllegal c).entropy = s.entropy := rfl
@[simp] theorem State.acceptIllegal_drawIdx (c : Word) : (s.acceptIllegal c).drawIdx = s.drawIdx := rfl
@[simp] theorem State.acceptIllegal_freeIdx (c : Word) : (s.acceptIllegal c).freeIdx = s.freeIdx := rfl

/-! completePgen -/

@[simp] theorem State.completePgen_cfg (n : Nat) (e : ErrCode) (p : Bool) : (s.completePgen n e p).cfg = s.cfg := rfl
@[simp] theorem State.completePgen_br (n : Nat) (e : ErrCode) (p : Bool) : (s.completePgen n e p).br = s.br := rfl
@[simp] theorem State.completePgen_ie (n : Nat) (e : ErrCode) (p : Bool) : (s.completePgen n e p).ie = s.ie := rfl
@[simp] theorem State.completePgen_done (n : Nat) (e : ErrCode) (p : Bool) : (s.completePgen n e p).done = true := rfl
@[simp] theorem State.completePgen_prime (n : Nat) (e : ErrCode) (p : Bool) : (s.completePgen n e p).prime = p := rfl
@[simp] theorem State.completePgen_ovr (n : Nat) (e : ErrCode) (p : Bool) : (s.completePgen n e p).ovr = s.ovr := rfl
@[simp] theorem State.completePgen_err (n : Nat) (e : ErrCode) (p : Bool) : (s.completePgen n e p).err = e := rfl
@[simp] theorem State.completePgen_cmdLast (n : Nat) (e : ErrCode) (p : Bool) : (s.completePgen n e p).cmdLast = s.cmdLast := rfl
@[simp] theorem State.completePgen_rounds (n : Nat) (e : ErrCode) (p : Bool) : (s.completePgen n e p).rounds = s.rounds := rfl
@[simp] theorem State.completePgen_retry (n : Nat) (e : ErrCode) (p : Bool) : (s.completePgen n e p).retry = s.retry := rfl
@[simp] theorem State.completePgen_drawlim (n : Nat) (e : ErrCode) (p : Bool) : (s.completePgen n e p).drawlim = s.drawlim := rfl
@[simp] theorem State.completePgen_candcnt (n : Nat) (e : ErrCode) (p : Bool) : (s.completePgen n e p).candcnt = candWord n := rfl
@[simp] theorem State.completePgen_flight (n : Nat) (e : ErrCode) (p : Bool) : (s.completePgen n e p).flight = none := rfl
@[simp] theorem State.completePgen_fault (n : Nat) (e : ErrCode) (p : Bool) : (s.completePgen n e p).fault = s.fault := rfl
@[simp] theorem State.completePgen_resp (n : Nat) (e : ErrCode) (p : Bool) : (s.completePgen n e p).resp = s.resp := rfl
@[simp] theorem State.completePgen_turns (n : Nat) (e : ErrCode) (p : Bool) : (s.completePgen n e p).turns = s.turns := rfl
@[simp] theorem State.completePgen_entropy (n : Nat) (e : ErrCode) (p : Bool) : (s.completePgen n e p).entropy = s.entropy := rfl
@[simp] theorem State.completePgen_drawIdx (n : Nat) (e : ErrCode) (p : Bool) : (s.completePgen n e p).drawIdx = s.drawIdx := rfl
@[simp] theorem State.completePgen_freeIdx (n : Nat) (e : ErrCode) (p : Bool) : (s.completePgen n e p).freeIdx = s.freeIdx := rfl

/-! countDraw -/

@[simp] theorem State.countDraw_cfg : (s.countDraw).cfg = s.cfg := rfl
@[simp] theorem State.countDraw_br : (s.countDraw).br = s.br := rfl
@[simp] theorem State.countDraw_ie : (s.countDraw).ie = s.ie := rfl
@[simp] theorem State.countDraw_done : (s.countDraw).done = s.done := rfl
@[simp] theorem State.countDraw_prime : (s.countDraw).prime = s.prime := rfl
@[simp] theorem State.countDraw_ovr : (s.countDraw).ovr = s.ovr := rfl
@[simp] theorem State.countDraw_err : (s.countDraw).err = s.err := rfl
@[simp] theorem State.countDraw_cmdLast : (s.countDraw).cmdLast = s.cmdLast := rfl
@[simp] theorem State.countDraw_rounds : (s.countDraw).rounds = s.rounds := rfl
@[simp] theorem State.countDraw_retry : (s.countDraw).retry = s.retry := rfl
@[simp] theorem State.countDraw_drawlim : (s.countDraw).drawlim = s.drawlim := rfl
@[simp] theorem State.countDraw_candcnt : (s.countDraw).candcnt = s.candcnt := rfl
@[simp] theorem State.countDraw_flight : (s.countDraw).flight = s.flight := rfl
@[simp] theorem State.countDraw_fault : (s.countDraw).fault = s.fault := rfl
@[simp] theorem State.countDraw_resp : (s.countDraw).resp = s.resp := rfl
@[simp] theorem State.countDraw_turns : (s.countDraw).turns = s.turns := rfl
@[simp] theorem State.countDraw_entropy : (s.countDraw).entropy = s.entropy.tail := rfl
@[simp] theorem State.countDraw_drawIdx : (s.countDraw).drawIdx = s.drawIdx + 1 := rfl
@[simp] theorem State.countDraw_freeIdx : (s.countDraw).freeIdx = s.freeIdx := rfl

/-! setReg -/

@[simp] theorem State.setReg_cfg (r : Reg) (x : BigReg) : (s.setReg r x).cfg = s.cfg := rfl
@[simp] theorem State.setReg_br (r : Reg) (x : BigReg) : (s.setReg r x).br = s.br.set r.toNat x r.isLt := rfl
@[simp] theorem State.setReg_ie (r : Reg) (x : BigReg) : (s.setReg r x).ie = s.ie := rfl
@[simp] theorem State.setReg_done (r : Reg) (x : BigReg) : (s.setReg r x).done = s.done := rfl
@[simp] theorem State.setReg_prime (r : Reg) (x : BigReg) : (s.setReg r x).prime = s.prime := rfl
@[simp] theorem State.setReg_ovr (r : Reg) (x : BigReg) : (s.setReg r x).ovr = s.ovr := rfl
@[simp] theorem State.setReg_err (r : Reg) (x : BigReg) : (s.setReg r x).err = s.err := rfl
@[simp] theorem State.setReg_cmdLast (r : Reg) (x : BigReg) : (s.setReg r x).cmdLast = s.cmdLast := rfl
@[simp] theorem State.setReg_rounds (r : Reg) (x : BigReg) : (s.setReg r x).rounds = s.rounds := rfl
@[simp] theorem State.setReg_retry (r : Reg) (x : BigReg) : (s.setReg r x).retry = s.retry := rfl
@[simp] theorem State.setReg_drawlim (r : Reg) (x : BigReg) : (s.setReg r x).drawlim = s.drawlim := rfl
@[simp] theorem State.setReg_candcnt (r : Reg) (x : BigReg) : (s.setReg r x).candcnt = s.candcnt := rfl
@[simp] theorem State.setReg_flight (r : Reg) (x : BigReg) : (s.setReg r x).flight = s.flight := rfl
@[simp] theorem State.setReg_fault (r : Reg) (x : BigReg) : (s.setReg r x).fault = s.fault := rfl
@[simp] theorem State.setReg_resp (r : Reg) (x : BigReg) : (s.setReg r x).resp = s.resp := rfl
@[simp] theorem State.setReg_turns (r : Reg) (x : BigReg) : (s.setReg r x).turns = s.turns := rfl
@[simp] theorem State.setReg_entropy (r : Reg) (x : BigReg) : (s.setReg r x).entropy = s.entropy := rfl
@[simp] theorem State.setReg_drawIdx (r : Reg) (x : BigReg) : (s.setReg r x).drawIdx = s.drawIdx := rfl
@[simp] theorem State.setReg_freeIdx (r : Reg) (x : BigReg) : (s.setReg r x).freeIdx = s.freeIdx := rfl

/-! writeBig -/

@[simp] theorem State.writeBig_cfg (r : Reg) (v : List Word) : (s.writeBig r v).cfg = s.cfg := rfl
@[simp] theorem State.writeBig_ie (r : Reg) (v : List Word) : (s.writeBig r v).ie = s.ie := rfl
@[simp] theorem State.writeBig_done (r : Reg) (v : List Word) : (s.writeBig r v).done = s.done := rfl
@[simp] theorem State.writeBig_prime (r : Reg) (v : List Word) : (s.writeBig r v).prime = s.prime := rfl
@[simp] theorem State.writeBig_ovr (r : Reg) (v : List Word) : (s.writeBig r v).ovr = s.ovr := rfl
@[simp] theorem State.writeBig_err (r : Reg) (v : List Word) : (s.writeBig r v).err = s.err := rfl
@[simp] theorem State.writeBig_cmdLast (r : Reg) (v : List Word) : (s.writeBig r v).cmdLast = s.cmdLast := rfl
@[simp] theorem State.writeBig_rounds (r : Reg) (v : List Word) : (s.writeBig r v).rounds = s.rounds := rfl
@[simp] theorem State.writeBig_retry (r : Reg) (v : List Word) : (s.writeBig r v).retry = s.retry := rfl
@[simp] theorem State.writeBig_drawlim (r : Reg) (v : List Word) : (s.writeBig r v).drawlim = s.drawlim := rfl
@[simp] theorem State.writeBig_candcnt (r : Reg) (v : List Word) : (s.writeBig r v).candcnt = s.candcnt := rfl
@[simp] theorem State.writeBig_flight (r : Reg) (v : List Word) : (s.writeBig r v).flight = s.flight := rfl
@[simp] theorem State.writeBig_fault (r : Reg) (v : List Word) : (s.writeBig r v).fault = s.fault := rfl
@[simp] theorem State.writeBig_resp (r : Reg) (v : List Word) : (s.writeBig r v).resp = s.resp := rfl
@[simp] theorem State.writeBig_turns (r : Reg) (v : List Word) : (s.writeBig r v).turns = s.turns := rfl
@[simp] theorem State.writeBig_entropy (r : Reg) (v : List Word) : (s.writeBig r v).entropy = s.entropy := rfl
@[simp] theorem State.writeBig_drawIdx (r : Reg) (v : List Word) : (s.writeBig r v).drawIdx = s.drawIdx := rfl
@[simp] theorem State.writeBig_freeIdx (r : Reg) (v : List Word) : (s.writeBig r v).freeIdx = s.freeIdx := rfl

/-! writeWord -/

@[simp] theorem State.writeWord_cfg (r : Reg) (j : Nat) (d : Word) : (s.writeWord r j d).cfg = s.cfg := rfl
@[simp] theorem State.writeWord_ie (r : Reg) (j : Nat) (d : Word) : (s.writeWord r j d).ie = s.ie := rfl
@[simp] theorem State.writeWord_done (r : Reg) (j : Nat) (d : Word) : (s.writeWord r j d).done = s.done := rfl
@[simp] theorem State.writeWord_prime (r : Reg) (j : Nat) (d : Word) : (s.writeWord r j d).prime = s.prime := rfl
@[simp] theorem State.writeWord_ovr (r : Reg) (j : Nat) (d : Word) : (s.writeWord r j d).ovr = s.ovr := rfl
@[simp] theorem State.writeWord_err (r : Reg) (j : Nat) (d : Word) : (s.writeWord r j d).err = s.err := rfl
@[simp] theorem State.writeWord_cmdLast (r : Reg) (j : Nat) (d : Word) : (s.writeWord r j d).cmdLast = s.cmdLast := rfl
@[simp] theorem State.writeWord_rounds (r : Reg) (j : Nat) (d : Word) : (s.writeWord r j d).rounds = s.rounds := rfl
@[simp] theorem State.writeWord_retry (r : Reg) (j : Nat) (d : Word) : (s.writeWord r j d).retry = s.retry := rfl
@[simp] theorem State.writeWord_drawlim (r : Reg) (j : Nat) (d : Word) : (s.writeWord r j d).drawlim = s.drawlim := rfl
@[simp] theorem State.writeWord_candcnt (r : Reg) (j : Nat) (d : Word) : (s.writeWord r j d).candcnt = s.candcnt := rfl
@[simp] theorem State.writeWord_flight (r : Reg) (j : Nat) (d : Word) : (s.writeWord r j d).flight = s.flight := rfl
@[simp] theorem State.writeWord_fault (r : Reg) (j : Nat) (d : Word) : (s.writeWord r j d).fault = s.fault := rfl
@[simp] theorem State.writeWord_resp (r : Reg) (j : Nat) (d : Word) : (s.writeWord r j d).resp = s.resp := rfl
@[simp] theorem State.writeWord_turns (r : Reg) (j : Nat) (d : Word) : (s.writeWord r j d).turns = s.turns := rfl
@[simp] theorem State.writeWord_entropy (r : Reg) (j : Nat) (d : Word) : (s.writeWord r j d).entropy = s.entropy := rfl
@[simp] theorem State.writeWord_drawIdx (r : Reg) (j : Nat) (d : Word) : (s.writeWord r j d).drawIdx = s.drawIdx := rfl
@[simp] theorem State.writeWord_freeIdx (r : Reg) (j : Nat) (d : Word) : (s.writeWord r j d).freeIdx = s.freeIdx := rfl

/-! writeStatus -/

@[simp] theorem State.writeStatus_cfg (d : Word) : (s.writeStatus d).cfg = s.cfg := rfl
@[simp] theorem State.writeStatus_br (d : Word) : (s.writeStatus d).br = s.br := rfl
@[simp] theorem State.writeStatus_ie (d : Word) : (s.writeStatus d).ie = s.ie := rfl
@[simp] theorem State.writeStatus_done (d : Word) : (s.writeStatus d).done = (s.done && !d.getLsbD 1) := rfl
@[simp] theorem State.writeStatus_prime (d : Word) : (s.writeStatus d).prime = s.prime := rfl
@[simp] theorem State.writeStatus_ovr (d : Word) : (s.writeStatus d).ovr = (s.ovr && !d.getLsbD 3) := rfl
@[simp] theorem State.writeStatus_err (d : Word) : (s.writeStatus d).err = s.err := rfl
@[simp] theorem State.writeStatus_cmdLast (d : Word) : (s.writeStatus d).cmdLast = s.cmdLast := rfl
@[simp] theorem State.writeStatus_rounds (d : Word) : (s.writeStatus d).rounds = s.rounds := rfl
@[simp] theorem State.writeStatus_retry (d : Word) : (s.writeStatus d).retry = s.retry := rfl
@[simp] theorem State.writeStatus_drawlim (d : Word) : (s.writeStatus d).drawlim = s.drawlim := rfl
@[simp] theorem State.writeStatus_candcnt (d : Word) : (s.writeStatus d).candcnt = s.candcnt := rfl
@[simp] theorem State.writeStatus_flight (d : Word) : (s.writeStatus d).flight = s.flight := rfl
@[simp] theorem State.writeStatus_fault (d : Word) : (s.writeStatus d).fault = s.fault := rfl
@[simp] theorem State.writeStatus_resp (d : Word) : (s.writeStatus d).resp = s.resp := rfl
@[simp] theorem State.writeStatus_turns (d : Word) : (s.writeStatus d).turns = s.turns := rfl
@[simp] theorem State.writeStatus_entropy (d : Word) : (s.writeStatus d).entropy = s.entropy := rfl
@[simp] theorem State.writeStatus_drawIdx (d : Word) : (s.writeStatus d).drawIdx = s.drawIdx := rfl
@[simp] theorem State.writeStatus_freeIdx (d : Word) : (s.writeStatus d).freeIdx = s.freeIdx := rfl

/-! softReset -/

@[simp] theorem State.softReset_cfg : (s.softReset).cfg = s.cfg := rfl
@[simp] theorem State.softReset_br : (s.softReset).br = s.br := rfl
@[simp] theorem State.softReset_ie : (s.softReset).ie = false := rfl
@[simp] theorem State.softReset_done : (s.softReset).done = false := rfl
@[simp] theorem State.softReset_prime : (s.softReset).prime = false := rfl
@[simp] theorem State.softReset_ovr : (s.softReset).ovr = false := rfl
@[simp] theorem State.softReset_err : (s.softReset).err = .noError := rfl
@[simp] theorem State.softReset_cmdLast : (s.softReset).cmdLast = 0 := rfl
@[simp] theorem State.softReset_rounds : (s.softReset).rounds = 0x0400 := rfl
@[simp] theorem State.softReset_retry : (s.softReset).retry = 0xFFFFFFFF := rfl
@[simp] theorem State.softReset_drawlim : (s.softReset).drawlim = 0xFFFFFFFF := rfl
@[simp] theorem State.softReset_candcnt : (s.softReset).candcnt = 0 := rfl
@[simp] theorem State.softReset_flight : (s.softReset).flight = none := rfl
@[simp] theorem State.softReset_fault : (s.softReset).fault = s.fault := rfl
@[simp] theorem State.softReset_resp : (s.softReset).resp = s.resp := rfl
@[simp] theorem State.softReset_turns : (s.softReset).turns = s.turns := rfl
@[simp] theorem State.softReset_entropy : (s.softReset).entropy = s.entropy := rfl
@[simp] theorem State.softReset_drawIdx : (s.softReset).drawIdx = s.drawIdx := rfl
@[simp] theorem State.softReset_freeIdx : (s.softReset).freeIdx = s.freeIdx := rfl

/-! hardReset -/

@[simp] theorem State.hardReset_cfg : (s.hardReset).cfg = s.cfg := rfl
@[simp] theorem State.hardReset_br : (s.hardReset).br = Vector.replicate 8 (List.replicate s.cfg.ww ⟨0, false⟩) := rfl
@[simp] theorem State.hardReset_ie : (s.hardReset).ie = false := rfl
@[simp] theorem State.hardReset_done : (s.hardReset).done = false := rfl
@[simp] theorem State.hardReset_prime : (s.hardReset).prime = false := rfl
@[simp] theorem State.hardReset_ovr : (s.hardReset).ovr = false := rfl
@[simp] theorem State.hardReset_err : (s.hardReset).err = .noError := rfl
@[simp] theorem State.hardReset_cmdLast : (s.hardReset).cmdLast = 0 := rfl
@[simp] theorem State.hardReset_rounds : (s.hardReset).rounds = 0x0400 := rfl
@[simp] theorem State.hardReset_retry : (s.hardReset).retry = 0xFFFFFFFF := rfl
@[simp] theorem State.hardReset_drawlim : (s.hardReset).drawlim = 0xFFFFFFFF := rfl
@[simp] theorem State.hardReset_candcnt : (s.hardReset).candcnt = 0 := rfl
@[simp] theorem State.hardReset_flight : (s.hardReset).flight = none := rfl
@[simp] theorem State.hardReset_fault : (s.hardReset).fault = s.fault := rfl
@[simp] theorem State.hardReset_resp : (s.hardReset).resp = none := rfl
@[simp] theorem State.hardReset_turns : (s.hardReset).turns = s.turns := rfl
@[simp] theorem State.hardReset_entropy : (s.hardReset).entropy = s.entropy := rfl
@[simp] theorem State.hardReset_drawIdx : (s.hardReset).drawIdx = s.drawIdx := rfl
@[simp] theorem State.hardReset_freeIdx : (s.hardReset).freeIdx = s.freeIdx := rfl

/-! respond -/

@[simp] theorem State.respond_cfg (d : Word) : (s.respond d).cfg = s.cfg := rfl
@[simp] theorem State.respond_br (d : Word) : (s.respond d).br = s.br := rfl
@[simp] theorem State.respond_ie (d : Word) : (s.respond d).ie = s.ie := rfl
@[simp] theorem State.respond_done (d : Word) : (s.respond d).done = s.done := rfl
@[simp] theorem State.respond_prime (d : Word) : (s.respond d).prime = s.prime := rfl
@[simp] theorem State.respond_ovr (d : Word) : (s.respond d).ovr = s.ovr := rfl
@[simp] theorem State.respond_err (d : Word) : (s.respond d).err = s.err := rfl
@[simp] theorem State.respond_cmdLast (d : Word) : (s.respond d).cmdLast = s.cmdLast := rfl
@[simp] theorem State.respond_rounds (d : Word) : (s.respond d).rounds = s.rounds := rfl
@[simp] theorem State.respond_retry (d : Word) : (s.respond d).retry = s.retry := rfl
@[simp] theorem State.respond_drawlim (d : Word) : (s.respond d).drawlim = s.drawlim := rfl
@[simp] theorem State.respond_candcnt (d : Word) : (s.respond d).candcnt = s.candcnt := rfl
@[simp] theorem State.respond_flight (d : Word) : (s.respond d).flight = s.flight := rfl
@[simp] theorem State.respond_fault (d : Word) : (s.respond d).fault = s.fault := rfl
@[simp] theorem State.respond_resp (d : Word) : (s.respond d).resp = some ⟨d, false⟩ := rfl
@[simp] theorem State.respond_turns (d : Word) : (s.respond d).turns = s.turns := rfl
@[simp] theorem State.respond_entropy (d : Word) : (s.respond d).entropy = s.entropy := rfl
@[simp] theorem State.respond_drawIdx (d : Word) : (s.respond d).drawIdx = s.drawIdx := rfl
@[simp] theorem State.respond_freeIdx (d : Word) : (s.respond d).freeIdx = s.freeIdx := rfl

/-! respondFree -/

@[simp] theorem State.respondFree_cfg (e : Bool) : (s.respondFree e).cfg = s.cfg := rfl
@[simp] theorem State.respondFree_br (e : Bool) : (s.respondFree e).br = s.br := rfl
@[simp] theorem State.respondFree_ie (e : Bool) : (s.respondFree e).ie = s.ie := rfl
@[simp] theorem State.respondFree_done (e : Bool) : (s.respondFree e).done = s.done := rfl
@[simp] theorem State.respondFree_prime (e : Bool) : (s.respondFree e).prime = s.prime := rfl
@[simp] theorem State.respondFree_ovr (e : Bool) : (s.respondFree e).ovr = s.ovr := rfl
@[simp] theorem State.respondFree_err (e : Bool) : (s.respondFree e).err = s.err := rfl
@[simp] theorem State.respondFree_cmdLast (e : Bool) : (s.respondFree e).cmdLast = s.cmdLast := rfl
@[simp] theorem State.respondFree_rounds (e : Bool) : (s.respondFree e).rounds = s.rounds := rfl
@[simp] theorem State.respondFree_retry (e : Bool) : (s.respondFree e).retry = s.retry := rfl
@[simp] theorem State.respondFree_drawlim (e : Bool) : (s.respondFree e).drawlim = s.drawlim := rfl
@[simp] theorem State.respondFree_candcnt (e : Bool) : (s.respondFree e).candcnt = s.candcnt := rfl
@[simp] theorem State.respondFree_flight (e : Bool) : (s.respondFree e).flight = s.flight := rfl
@[simp] theorem State.respondFree_fault (e : Bool) : (s.respondFree e).fault = s.fault := rfl
@[simp] theorem State.respondFree_resp (e : Bool) : (s.respondFree e).resp = some ⟨Config.freeRdata s.freeIdx, e⟩ := rfl
@[simp] theorem State.respondFree_turns (e : Bool) : (s.respondFree e).turns = s.turns := rfl
@[simp] theorem State.respondFree_entropy (e : Bool) : (s.respondFree e).entropy = s.entropy := rfl
@[simp] theorem State.respondFree_drawIdx (e : Bool) : (s.respondFree e).drawIdx = s.drawIdx := rfl
@[simp] theorem State.respondFree_freeIdx (e : Bool) : (s.respondFree e).freeIdx = s.freeIdx + 1 := rfl

/-! recordFault: every field but fault -/

@[simp] theorem State.recordFault_cfg (f : FaultReason) : (s.recordFault f).cfg = s.cfg := by
  unfold State.recordFault; split <;> rfl
@[simp] theorem State.recordFault_br (f : FaultReason) : (s.recordFault f).br = s.br := by
  unfold State.recordFault; split <;> rfl
@[simp] theorem State.recordFault_ie (f : FaultReason) : (s.recordFault f).ie = s.ie := by
  unfold State.recordFault; split <;> rfl
@[simp] theorem State.recordFault_done (f : FaultReason) : (s.recordFault f).done = s.done := by
  unfold State.recordFault; split <;> rfl
@[simp] theorem State.recordFault_prime (f : FaultReason) : (s.recordFault f).prime = s.prime := by
  unfold State.recordFault; split <;> rfl
@[simp] theorem State.recordFault_ovr (f : FaultReason) : (s.recordFault f).ovr = s.ovr := by
  unfold State.recordFault; split <;> rfl
@[simp] theorem State.recordFault_err (f : FaultReason) : (s.recordFault f).err = s.err := by
  unfold State.recordFault; split <;> rfl
@[simp] theorem State.recordFault_cmdLast (f : FaultReason) : (s.recordFault f).cmdLast = s.cmdLast := by
  unfold State.recordFault; split <;> rfl
@[simp] theorem State.recordFault_rounds (f : FaultReason) : (s.recordFault f).rounds = s.rounds := by
  unfold State.recordFault; split <;> rfl
@[simp] theorem State.recordFault_retry (f : FaultReason) : (s.recordFault f).retry = s.retry := by
  unfold State.recordFault; split <;> rfl
@[simp] theorem State.recordFault_drawlim (f : FaultReason) : (s.recordFault f).drawlim = s.drawlim := by
  unfold State.recordFault; split <;> rfl
@[simp] theorem State.recordFault_candcnt (f : FaultReason) : (s.recordFault f).candcnt = s.candcnt := by
  unfold State.recordFault; split <;> rfl
@[simp] theorem State.recordFault_flight (f : FaultReason) : (s.recordFault f).flight = s.flight := by
  unfold State.recordFault; split <;> rfl
@[simp] theorem State.recordFault_resp (f : FaultReason) : (s.recordFault f).resp = s.resp := by
  unfold State.recordFault; split <;> rfl
@[simp] theorem State.recordFault_turns (f : FaultReason) : (s.recordFault f).turns = s.turns := by
  unfold State.recordFault; split <;> rfl
@[simp] theorem State.recordFault_entropy (f : FaultReason) : (s.recordFault f).entropy = s.entropy := by
  unfold State.recordFault; split <;> rfl
@[simp] theorem State.recordFault_drawIdx (f : FaultReason) : (s.recordFault f).drawIdx = s.drawIdx := by
  unfold State.recordFault; split <;> rfl
@[simp] theorem State.recordFault_freeIdx (f : FaultReason) : (s.recordFault f).freeIdx = s.freeIdx := by
  unfold State.recordFault; split <;> rfl

/-- The first recorded fault stays (R202). -/
@[simp] theorem State.recordFault_fault (f : FaultReason) : (s.recordFault f).fault = some (s.fault.getD f) := by
  unfold State.recordFault; split <;> simp_all

/-! abort: every field that it leaves -/

@[simp] theorem State.abort_cfg : s.abort.cfg = s.cfg := by unfold State.abort; split <;> rfl
@[simp] theorem State.abort_br : s.abort.br = s.br := by unfold State.abort; split <;> rfl
@[simp] theorem State.abort_ie : s.abort.ie = s.ie := by unfold State.abort; split <;> rfl
@[simp] theorem State.abort_ovr : s.abort.ovr = s.ovr := by unfold State.abort; split <;> rfl
@[simp] theorem State.abort_cmdLast : s.abort.cmdLast = s.cmdLast := by unfold State.abort; split <;> rfl
@[simp] theorem State.abort_rounds : s.abort.rounds = s.rounds := by unfold State.abort; split <;> rfl
@[simp] theorem State.abort_retry : s.abort.retry = s.retry := by unfold State.abort; split <;> rfl
@[simp] theorem State.abort_drawlim : s.abort.drawlim = s.drawlim := by unfold State.abort; split <;> rfl
@[simp] theorem State.abort_fault : s.abort.fault = s.fault := by unfold State.abort; split <;> rfl
@[simp] theorem State.abort_resp : s.abort.resp = s.resp := by unfold State.abort; split <;> rfl
@[simp] theorem State.abort_turns : s.abort.turns = s.turns := by unfold State.abort; split <;> rfl
@[simp] theorem State.abort_entropy : s.abort.entropy = s.entropy := by unfold State.abort; split <;> rfl
@[simp] theorem State.abort_drawIdx : s.abort.drawIdx = s.drawIdx := by unfold State.abort; split <;> rfl
@[simp] theorem State.abort_freeIdx : s.abort.freeIdx = s.freeIdx := by unfold State.abort; split <;> rfl

end Sys2Proof.Machine
end

