-- ==== Sys2Proof/Laws/Registers.lean ====
section
/-! SUPPORT. The register file: what a read gives after an update, the words of a number, and the operand encodings. -/

namespace Sys2Proof.Machine

/-! Registers after an update -/

/-- The register file is read through `br` alone. -/
theorem State.reg_congr {s t : State} (h : t.br = s.br) (r : Reg) : t.reg r = s.reg r := by
  unfold State.reg; rw [h]

@[simp] theorem State.reg_complete (s : State) (e : ErrCode) (p : Bool) (r : Reg) : (s.complete e p).reg r = s.reg r := rfl
@[simp] theorem State.reg_launch (s : State) (f : InFlight) (r : Reg) : (s.launch f).reg r = s.reg r := rfl
@[simp] theorem State.reg_withTurns (s : State) (ts : List Turn) (r : Reg) : (s.withTurns ts).reg r = s.reg r := rfl
@[simp] theorem State.reg_setIe (s : State) (b : Bool) (r : Reg) : (s.setIe b).reg r = s.reg r := rfl
@[simp] theorem State.reg_dropWrite (s : State) (r : Reg) : (s.dropWrite).reg r = s.reg r := rfl
@[simp] theorem State.reg_beginAccept (s : State) (c : Word) (r : Reg) : (s.beginAccept c).reg r = s.reg r := rfl
@[simp] theorem State.reg_acceptIllegal (s : State) (c : Word) (r : Reg) : (s.acceptIllegal c).reg r = s.reg r := rfl
@[simp] theorem State.reg_completePgen (s : State) (n : Nat) (e : ErrCode) (p : Bool) (r : Reg) : (s.completePgen n e p).reg r = s.reg r := rfl
@[simp] theorem State.reg_countDraw (s : State) (r : Reg) : (s.countDraw).reg r = s.reg r := rfl
@[simp] theorem State.reg_writeStatus (s : State) (d : Word) (r : Reg) : (s.writeStatus d).reg r = s.reg r := rfl
@[simp] theorem State.reg_softReset (s : State) (r : Reg) : (s.softReset).reg r = s.reg r := rfl
@[simp] theorem State.reg_respond (s : State) (d : Word) (r : Reg) : (s.respond d).reg r = s.reg r := rfl
@[simp] theorem State.reg_respondFree (s : State) (e : Bool) (r : Reg) : (s.respondFree e).reg r = s.reg r := rfl

@[simp] theorem State.reg_recordFault (s : State) (f : FaultReason) (r : Reg) : (s.recordFault f).reg r = s.reg r :=
  State.reg_congr (by simp) r

/-- A register after a write of one register: the new content there, the old content everywhere else. -/
theorem State.reg_setReg (s : State) (r : Reg) (x : BigReg) (r' : Reg) :
    (s.setReg r x).reg r' = if r' = r then x else s.reg r' := by
  have h : r'.toNat < 8 := r'.isLt
  have h2 : (r.toNat = r'.toNat) ↔ (r' = r) := by rw [eq_comm, BitVec.toNat_inj]
  simp only [State.reg, State.setReg, Vector.get_eq_getElem, Vector.getElem_set]
  simp only [BitVec.val_toFin, h2]

@[simp] theorem State.reg_setReg_self (s : State) (r : Reg) (x : BigReg) : (s.setReg r x).reg r = x := by
  simp [State.reg_setReg]

theorem State.reg_setReg_ne {s : State} {r r' : Reg} (x : BigReg) (h : r' ≠ r) : (s.setReg r x).reg r' = s.reg r' := by
  simp [State.reg_setReg, h]

theorem State.reg_writeBig (s : State) (r : Reg) (v : List Word) (r' : Reg) :
    (s.writeBig r v).reg r' = if r' = r then v.map (fun d => ⟨d, true⟩) else s.reg r' :=
  State.reg_setReg ..

theorem State.reg_writeWord (s : State) (r : Reg) (j : Nat) (d : Word) (r' : Reg) :
    (s.writeWord r j d).reg r' = if r' = r then (s.reg r).set j ⟨d, true⟩ else s.reg r' :=
  State.reg_setReg ..

/-- `uval` is a function of the register's content. -/
theorem State.uval_congr {s t : State} {r : Reg} (h : t.reg r = s.reg r) : t.uval r = s.uval r := by
  unfold State.uval; rw [h]

/-- After `BR[r] <- v`, `uval` reads the number of the words `v`. -/
theorem State.uval_writeBig_self (s : State) (r : Reg) (v : List Word) : (s.writeBig r v).uval r = ofWords v := by
  simp [State.uval, State.reg_writeBig, List.map_map, Function.comp_def]

/-! Words of a number -/

@[simp] theorem length_toWords (k z : Nat) : (toWords k z).length = k := by
  induction k generalizing z with
  | zero => rfl
  | succ k ih => simp [toWords, ih]

/-- The words of a number hold it modulo the register's size (R13, R68). -/
theorem ofWords_toWords (k z : Nat) : ofWords (toWords k z) = z % 2 ^ (32 * k) := by
  induction k generalizing z with
  | zero => simp [toWords, ofWords, Nat.mod_one]
  | succ k ih =>
    rw [toWords, ofWords, ih, BitVec.toNat_ofNat, Nat.mul_succ, Nat.add_comm (32 * k), Nat.pow_add, Nat.mod_mul]

/-- A pattern of `k` words is below `2^(32*k)`. -/
theorem ofWords_lt (ws : List Word) : ofWords ws < 2 ^ (32 * ws.length) := by
  induction ws with
  | nil => simp [ofWords]
  | cons w ws ih =>
    have hw := w.isLt
    rw [ofWords, List.length_cons, Nat.mul_succ, Nat.add_comm (32 * _), Nat.pow_add]
    calc w.toNat + 2 ^ 32 * ofWords ws < 2 ^ 32 + 2 ^ 32 * ofWords ws := by omega
      _ = 2 ^ 32 * (ofWords ws + 1) := by ring
      _ ≤ _ := Nat.mul_le_mul_left _ ih

/-- A register of `ww` words reads below `2^W`. -/
theorem State.uval_lt {s : State} {r : Reg} (h : (s.reg r).length = s.cfg.ww) : s.uval r < 2 ^ s.cfg.w := by
  have := ofWords_lt ((s.reg r).map BrWord.data)
  rwa [List.length_map, h] at this

/-- `enc_u` of a representable number reads back as it (R13). -/
theorem ofWords_encU {ww z : Nat} (h : z < 2 ^ (32 * ww)) : ofWords (encU ww z) = z := by
  rw [encU, ofWords_toWords, Nat.mod_eq_of_lt h]

/-- `enc_s` of a number in the two's complement range reads back as it (R13). -/
theorem svalOf_encS {ww : Nat} {z : Int} (hw : 1 ≤ ww) (h : fitsS (32 * ww) z = true) :
    svalOf (32 * ww) (ofWords (encS ww z)) = z := by
  obtain ⟨n, hn⟩ : ∃ n, 32 * ww = n + 1 := ⟨32 * ww - 1, by omega⟩
  simp only [fitsS, Bool.and_eq_true, decide_eq_true_eq, hn, Nat.add_sub_cancel] at h
  have hp : (0 : Int) < 2 ^ n := by positivity
  have h2 : (2 : Int) ^ (n + 1) = 2 * 2 ^ n := by ring
  have hlt : (z % 2 ^ (n + 1)).toNat < 2 ^ (n + 1) := by
    have := Int.emod_lt_of_pos z (show (0 : Int) < 2 ^ (n + 1) by positivity)
    have h0 := Int.emod_nonneg z (show (2 : Int) ^ (n + 1) ≠ 0 by positivity)
    zify; rw [Int.toNat_of_nonneg h0]; exact this
  rw [encS, ofWords_toWords, hn, Nat.mod_eq_of_lt hlt, svalOf, Nat.add_sub_cancel]
  rcases lt_or_ge z 0 with hz | hz
  · have e : z % 2 ^ (n + 1) = z + 2 ^ (n + 1) := by
      rw [← Int.add_emod_right]; exact Int.emod_eq_of_lt (by omega) (by omega)
    have hb : (z % 2 ^ (n + 1)).toNat.testBit n = true := by
      have : 2 ^ n ≤ (z % 2 ^ (n + 1)).toNat := by zify; rw [e, Int.toNat_of_nonneg (by omega)]; omega
      rw [Nat.testBit_eq_decide_div_mod_eq]
      have : (z % 2 ^ (n + 1)).toNat / 2 ^ n = 1 := Nat.div_eq_of_lt_le (by omega) (by rw [Nat.pow_succ] at hlt; omega)
      simp [this]
    rw [if_pos hb, e, Int.toNat_of_nonneg (by omega)]; omega
  · have e : z % 2 ^ (n + 1) = z := Int.emod_eq_of_lt hz (by omega)
    have hb : (z % 2 ^ (n + 1)).toNat.testBit n = false := by
      apply Nat.testBit_lt_two_pow
      zify; rw [e, Int.toNat_of_nonneg hz]; omega
    rw [hb, e, Int.toNat_of_nonneg hz]; simp

/-! The unwritten-source check -/

theorem unwrittenAt_eq_none {x : BigReg} : unwrittenAt x = none ↔ ∀ w ∈ x, w.wr = true := by
  simp [unwrittenAt]

/-- The check of R47 finds nothing exactly where every word of every source is written. -/
theorem State.firstUnwritten_eq_none {s : State} {rs : List Reg} :
    s.firstUnwritten rs = none ↔ ∀ r ∈ rs, ∀ w ∈ s.reg r, w.wr = true := by
  induction rs with
  | nil => simp [State.firstUnwritten]
  | cons r rs ih =>
    rw [State.firstUnwritten]
    cases h : unwrittenAt (s.reg r) with
    | some j =>
      have : ¬ ∀ w ∈ s.reg r, w.wr = true := by rw [← unwrittenAt_eq_none, h]; simp
      simp [this]
    | none =>
      have := unwrittenAt_eq_none.mp h
      simp only [List.mem_cons, forall_eq_or_imp, ih]
      exact ⟨fun h => ⟨this, h⟩, fun h => h.2⟩

/-- The check looks at the registers alone. -/
theorem State.firstUnwritten_congr {s t : State} (h : ∀ r, t.reg r = s.reg r) (rs : List Reg) :
    t.firstUnwritten rs = s.firstUnwritten rs := by
  induction rs with
  | nil => rfl
  | cons r rs ih => simp only [State.firstUnwritten, h r, ih]

end Sys2Proof.Machine
end

