-- ==== Sys2Proof/Laws/Ops.lean ====
section
/-! SUPPORT. For each shared operation, once, everything it can do: the draw, the accept step, abort, the CTRL write, the
test step; and that fast modular exponentiation is the power of R15. -/

namespace Sys2Proof.Machine

/-! powmod (R15) -/

/-- The loop multiplies the accumulator by the power, if the fuel covers the exponent's bits. -/
theorem powModLoop_eq (fuel b e m acc : Nat) (h : e < 2 ^ fuel) (ha : acc % m = acc) :
    powModLoop fuel b e m acc = acc * b ^ e % m := by
  induction fuel generalizing b e acc with
  | zero =>
    have : e = 0 := by simpa using h
    subst this
    simp [powModLoop, ha]
  | succ fuel ih =>
    rw [powModLoop]
    split
    · next h0 => subst h0; simp [ha]
    · have h2 : e / 2 < 2 ^ fuel := by rw [Nat.pow_succ] at h; omega
      have key : (b * b % m) ^ (e / 2) ≡ b ^ (2 * (e / 2)) [MOD m] := by
        rw [pow_mul, pow_two]; exact (Nat.mod_modEq _ _).pow _
      rw [ih _ _ _ h2 (by split <;> simp [ha])]
      split
      · next h1 =>
        have he : e = 2 * (e / 2) + 1 := by omega
        have : (acc * b % m) * (b * b % m) ^ (e / 2) ≡ acc * b ^ e [MOD m] := by
          conv_rhs => rw [he, pow_succ, mul_comm (b ^ _) b, ← mul_assoc]
          exact (Nat.mod_modEq _ _).mul key
        exact this
      · have he : e = 2 * (e / 2) := by omega
        have : acc * (b * b % m) ^ (e / 2) ≡ acc * b ^ e [MOD m] := by
          conv_rhs => rw [he]
          exact Nat.ModEq.rfl.mul key
        exact this

/-- `powmod(b, e, m)` is `(b^e) mod m` (R15). -/
theorem powMod_eq (b e m : Nat) : powMod b e m = b ^ e % m := by
  rw [powMod, powModLoop_eq _ _ _ _ _ Nat.lt_log2_self (by simp)]
  have : (1 % m) * (b % m) ^ e ≡ 1 * b ^ e [MOD m] := (Nat.mod_modEq _ _).mul ((Nat.mod_modEq _ _).pow _)
  rw [one_mul] at this
  exact this

/-! Draws (R9, R82) -/

theorem intoRange_mem {lo hi : Nat} (h : lo ≤ hi) (v : Nat) : lo ≤ intoRange lo hi v ∧ intoRange lo hi v ≤ hi := by
  unfold intoRange
  split
  · assumption
  · have := Nat.mod_lt v (show 0 < hi - lo + 1 by omega)
    omega

theorem intoRange_of_mem {lo hi v : Nat} (h : lo ≤ v ∧ v ≤ hi) : intoRange lo hi v = v := if_pos h

/-- The state after a draw: one more draw is counted, and the answer used is gone. -/
theorem State.draw_state (s : State) (lo hi : Nat) :
    (s.draw lo hi).2 = s.countDraw := by
  unfold State.draw; split <;> rfl

/-- A draw answers FAIL or a value of its range (R9). -/
theorem State.draw_mem {s : State} {lo hi a : Nat} (h : lo ≤ hi) (ha : (s.draw lo hi).1 = some a) : lo ≤ a ∧ a ≤ hi := by
  unfold State.draw at ha
  split at ha
  all_goals
    simp only [Option.map_eq_some_iff] at ha
    obtain ⟨v, -, rfl⟩ := ha
    exact intoRange_mem h v

/-- An answer of the range that is at hand is the draw's answer. -/
theorem State.draw_of_entropy {s : State} {lo hi a : Nat} {rest : List (Option Nat)} (h : s.entropy = some a :: rest)
    (ha : lo ≤ a ∧ a ≤ hi) : s.draw lo hi = (some a, s.countDraw) := by
  simp [State.draw, h, intoRange_of_mem ha]

/-- A FAIL at hand is the draw's answer. -/
theorem State.draw_of_fail {s : State} {lo hi : Nat} {rest : List (Option Nat)} (h : s.entropy = none :: rest) :
    s.draw lo hi = (none, s.countDraw) := by
  simp [State.draw, h]

/-! The accept step (R47) -/

/-- What an accept step does: an illegal command completes, an unwritten source is recorded, or the family's start runs. -/
theorem State.accept_cases (s : State) (i : Instr) (start : State → State) :
    (i.wellFormed = false ∧ s.accept i start = s.acceptIllegal (encode i)) ∨
    (i.wellFormed = true ∧ ∃ r j, s.firstUnwritten (sourcesOf i) = some (r, j) ∧
      s.accept i start = (s.beginAccept (encode i)).recordFault (.unwrittenRead r j)) ∨
    (i.wellFormed = true ∧ s.firstUnwritten (sourcesOf i) = none ∧
      s.accept i start = start (s.beginAccept (encode i))) := by
  have hc : (s.beginAccept (encode i)).firstUnwritten (sourcesOf i) = s.firstUnwritten (sourcesOf i) :=
    State.firstUnwritten_congr (s := s) (fun r => s.reg_beginAccept _ r) _
  unfold State.accept
  cases hw : i.wellFormed with
  | false => simp
  | true =>
    rw [hc]
    cases h : s.firstUnwritten (sourcesOf i) with
    | some p => exact .inr (.inl ⟨rfl, p.1, p.2, rfl, rfl⟩)
    | none => exact .inr (.inr ⟨rfl, rfl, rfl⟩)

/-- The accept step of a well-formed command whose sources are written is its family's start. -/
theorem State.accept_written {s : State} {i : Instr} (start : State → State) (hw : i.wellFormed = true)
    (h : ∀ r ∈ sourcesOf i, ∀ w ∈ s.reg r, w.wr = true) : s.accept i start = start (s.beginAccept (encode i)) := by
  obtain ⟨h1, -⟩ | ⟨-, r, j, h2, -⟩ | ⟨-, -, h3⟩ := s.accept_cases i start
  · simp [h1] at hw
  · rw [State.firstUnwritten_eq_none.mpr h] at h2; cases h2
  · exact h3

/-! Abort and CTRL writes (R32, R212, R213) -/

/-- What an abort does: nothing while idle; CANDCNT and the completion for a PGEN; the completion for the others. -/
theorem State.abort_cases (s : State) :
    (s.flight = none ∧ s.abort = s) ∨
    (∃ rd bits cand phase, s.flight = some (.pgen rd bits cand phase) ∧
      s.abort = s.completePgen cand .aborted false) ∨
    ((∃ f, s.flight = some f ∧ ∀ rd bits cand phase, f ≠ .pgen rd bits cand phase) ∧
      s.abort = s.complete .aborted false) := by
  unfold State.abort
  cases h : s.flight with
  | none => exact .inl ⟨rfl, rfl⟩
  | some f =>
    cases f with
    | pgen rd bits cand phase => exact .inr (.inl ⟨rd, bits, cand, phase, rfl, rfl⟩)
    | modexp | modmul | egcd | ptest => exact .inr (.inr ⟨⟨_, rfl, by simp⟩, rfl⟩)

@[simp] theorem State.reg_abort (s : State) (r : Reg) : s.abort.reg r = s.reg r := State.reg_congr (by simp) r

@[simp] theorem State.abort_flight (s : State) : s.abort.flight = none := by
  obtain ⟨h0, h⟩ | ⟨_, _, _, _, -, h⟩ | ⟨-, h⟩ := s.abort_cases <;> simp [*]

/-- What a CTRL write does (R32): the soft reset alone, or IE and then the abort, or IE alone. -/
theorem State.writeCtrl_cases (s : State) (d : Word) :
    (d.getLsbD 2 = true ∧ s.writeCtrl d = s.softReset) ∨
    (d.getLsbD 2 = false ∧ d.getLsbD 1 = true ∧ s.writeCtrl d = (s.setIe (d.getLsbD 0)).abort) ∨
    (d.getLsbD 2 = false ∧ d.getLsbD 1 = false ∧ s.writeCtrl d = s.setIe (d.getLsbD 0)) := by
  unfold State.writeCtrl
  cases d.getLsbD 2 <;> cases d.getLsbD 1 <;> simp

/-! The test step (R123) -/

/-- What a judged base gives: a skip, the verdict FAILED, the verdict PASSED, or a passed round and more to come. -/
theorem judgeBase_cases (rounds : Nat) (t : TestProgress) (a : Nat) :
    (a ∈ t.seen ∧ a % 2 = 1 ∧ judgeBase rounds t a = .more { t with draws := t.draws + 1 }) ∨
    (¬(a ∈ t.seen ∧ a % 2 = 1) ∧ a ^ (t.n - 1) % t.n ≠ 1 ∧ judgeBase rounds t a = .failed) ∨
    (¬(a ∈ t.seen ∧ a % 2 = 1) ∧ a ^ (t.n - 1) % t.n = 1 ∧ t.rounds + 1 = rounds ∧ judgeBase rounds t a = .passed) ∨
    (¬(a ∈ t.seen ∧ a % 2 = 1) ∧ a ^ (t.n - 1) % t.n = 1 ∧ t.rounds + 1 ≠ rounds ∧ judgeBase rounds t a =
      .more { t with draws := t.draws + 1, seen := insertBase a t.seen, rounds := t.rounds + 1 }) := by
  unfold judgeBase
  rw [powMod_eq]
  by_cases h1 : a ∈ t.seen ∧ a % 2 = 1
  · exact .inl ⟨h1.1, h1.2, if_pos h1⟩
  by_cases h2 : a ^ (t.n - 1) % t.n = 1
  · by_cases h3 : t.rounds + 1 = rounds <;> simp [h1, h2, h3]
  · exact .inr (.inl ⟨h1, h2, by rw [if_neg h1, if_pos h2]⟩)

/-- What a test step does: the draw ceiling without a draw (R125), or one draw, which fails or is judged. -/
theorem testStep_cases (t : TestProgress) (s : State) :
    (t.draws = s.drawlim.toNat ∧ testStep t s = (.exhausted, s)) ∨
    (t.draws ≠ s.drawlim.toNat ∧ (s.draw 2 (t.n - 1)).1 = none ∧
      testStep t s = (.entropyFail, s.countDraw)) ∨
    (t.draws ≠ s.drawlim.toNat ∧ ∃ a, (s.draw 2 (t.n - 1)).1 = some a ∧
      testStep t s = (judgeBase s.rounds.toNat t a, s.countDraw)) := by
  unfold testStep
  by_cases h : t.draws = s.drawlim.toNat
  · exact .inl ⟨h, if_pos h⟩
  · rw [if_neg h]
    have h2 := s.draw_state 2 (t.n - 1)
    cases hd : s.draw 2 (t.n - 1) with
    | mk o s' => rw [hd] at h2; subst h2; cases o <;> simp [h]

/-! The candidate step (R133) -/

/-- What a candidate step does: the RETRY ceiling without a draw, or one draw, which fails or makes a candidate. -/
theorem candidateStep_cases (rd : Reg) (bits : BitVec 16) (cand : Nat) (s : State) :
    (cand = s.retry.toNat ∧ candidateStep rd bits cand s = s.completePgen cand .exhausted false) ∨
    (cand ≠ s.retry.toNat ∧ (s.draw 0 (2 ^ bits.toNat - 1)).1 = none ∧
      candidateStep rd bits cand s = s.countDraw.completePgen (cand + 1) .entropy false) ∨
    (cand ≠ s.retry.toNat ∧ ∃ r, (s.draw 0 (2 ^ bits.toNat - 1)).1 = some r ∧
      candidateStep rd bits cand s =
        s.countDraw.launch (.pgen rd bits (cand + 1) (.testing (.fresh (candidateOf bits.toNat r))))) := by
  unfold candidateStep
  split
  · next h => exact .inl ⟨h, rfl⟩
  · next h =>
    have h2 := s.draw_state 0 (2 ^ bits.toNat - 1)
    cases hd : s.draw 0 (2 ^ bits.toNat - 1) with
    | mk o s' =>
      rw [hd] at h2; subst h2
      cases o with
      | none => exact .inr (.inl ⟨h, rfl, rfl⟩)
      | some r => exact .inr (.inr ⟨h, r, rfl, rfl⟩)

/-- A block whose command has just ended has no draw ceiling to meet. -/
theorem State.endWithoutDraws_completePgen (s : State) (n : Nat) (e : ErrCode) (p : Bool) :
    (s.completePgen n e p).endWithoutDraws = s.completePgen n e p := rfl

/-- What the engine step that draws a candidate does: R133's branches, and with DRAWLIM = 0 R37's completion of the one
that made a candidate. -/
theorem advanceCandidate_cases (rd : Reg) (bits : BitVec 16) (cand : Nat) (s : State) :
    (cand = s.retry.toNat ∧ advanceCandidate rd bits cand s = s.completePgen cand .exhausted false) ∨
    (cand ≠ s.retry.toNat ∧ (s.draw 0 (2 ^ bits.toNat - 1)).1 = none ∧
      advanceCandidate rd bits cand s = s.countDraw.completePgen (cand + 1) .entropy false) ∨
    (cand ≠ s.retry.toNat ∧ ∃ r, (s.draw 0 (2 ^ bits.toNat - 1)).1 = some r ∧
      ((s.drawlim = 0 ∧ advanceCandidate rd bits cand s = s.countDraw.completePgen (cand + 1) .exhausted false) ∨
        (s.drawlim ≠ 0 ∧ advanceCandidate rd bits cand s =
          s.countDraw.launch (.pgen rd bits (cand + 1) (.testing (.fresh (candidateOf bits.toNat r))))))) := by
  unfold advanceCandidate
  obtain ⟨hc, h⟩ | ⟨hc, hd, h⟩ | ⟨hc, r, hd, h⟩ := candidateStep_cases rd bits cand s <;> rw [h]
  · exact .inl ⟨hc, rfl⟩
  · exact .inr (.inl ⟨hc, hd, rfl⟩)
  · refine .inr (.inr ⟨hc, r, hd, ?_⟩)
    by_cases h0 : s.drawlim = 0
    · exact .inl ⟨h0, if_pos h0⟩
    · exact .inr ⟨h0, if_neg h0⟩

/-- Where DRAWLIM is above 0 the engine step that draws a candidate is R133's candidate step. -/
theorem advanceCandidate_of_drawlim {s : State} (h : s.drawlim ≠ 0) (rd : Reg) (bits : BitVec 16) (cand : Nat) :
    advanceCandidate rd bits cand s = candidateStep rd bits cand s := by
  unfold advanceCandidate
  obtain ⟨-, h2⟩ | ⟨-, -, h2⟩ | ⟨-, r, -, h2⟩ := candidateStep_cases rd bits cand s <;> rw [h2]
  · rfl
  · rfl
  · exact if_neg h

/-! Engine turns (R48) -/

/-- What the engine's turn answers: the next step of the command in flight, or nothing new. -/
theorem engineTurn_cases (s : State) :
    (s.fault = none ∧ ∃ f, s.flight = some f ∧ engineTurn s = exec f.instr s) ∨
    ((s.fault ≠ none ∨ s.flight = none) ∧ engineTurn s = .next s) := by
  unfold engineTurn
  cases h : s.fault with
  | some x => exact .inr ⟨.inl (by simp), rfl⟩
  | none =>
    cases h2 : s.flight with
    | some f => exact .inl ⟨rfl, f, rfl, rfl⟩
    | none => exact .inr ⟨.inr rfl, rfl⟩

end Sys2Proof.Machine
end

