-- ==== Sys2Proof/Laws/Exec.lean ====
section
/-! SUPPORT. Once, everything that exec can do: the accept step of an idle block, the engine step of the command in
flight, or the dropped issue of a command while another is in flight. -/

namespace Sys2Proof.Machine

/-- The family's own accept check and start (R161, R168, R182, R121, R131). -/
def startOf : Instr → State → State
  | .modexp rd rs1 rs2 rs3 => startModexp rd rs1 rs2 rs3
  | .modmul rd rs1 rs2 rs3 => startModmul rd rs1 rs2 rs3
  | .egcd rd rd2 rd3 rs1 rs2 sgn => startEgcd rd rd2 rd3 rs1 rs2 sgn
  | .ptest rs1 => startPtest rs1
  | .pgen rd bits => startPgen rd bits

/-- The next engine step of a command in flight (R45). -/
def advanceOf : InFlight → State → State
  | .modexp rd _ _ _ b e m => finishModexp rd b e m
  | .modmul rd _ _ _ a b m => finishModmul rd a b m
  | .egcd rd rd2 rd3 _ _ sgn a b => finishEgcd rd rd2 rd3 sgn a b
  | .ptest rs1 t => advancePtest rs1 t
  | .pgen rd bits cand .needCandidate => advanceCandidate rd bits cand
  | .pgen rd bits cand (.testing t) => advancePgen rd bits cand t

/-- exec of an idle block is the accept step (R47). -/
theorem exec_idle {s : State} (h : s.flight = none) (i : Instr) : exec i s = .next (s.accept i (startOf i)) := by
  cases i <;> simp [exec, execModexp, execModmul, execEgcd, execPtest, execPgen, startOf, h]

/-- exec of the command in flight is its engine step (R45). -/
theorem exec_own {s : State} {f : InFlight} (h : s.flight = some f) : exec f.instr s = .next (advanceOf f s) := by
  cases f with
  | pgen rd bits cand phase => cases phase <;> simp [exec, InFlight.instr, execPgen, advanceOf, h]
  | modexp | modmul | egcd | ptest =>
    simp [exec, InFlight.instr, execModexp, execModmul, execEgcd, execPtest, advanceOf, h]

/-- exec never stops: it answers the accept step, the engine step, or the dropped issue. -/
theorem exec_next (i : Instr) (s : State) :
    (s.flight = none ∧ exec i s = .next (s.accept i (startOf i))) ∨
    (∃ f, s.flight = some f ∧ f.instr = i ∧ exec i s = .next (advanceOf f s)) ∨
    (∃ f, s.flight = some f ∧ f.instr ≠ i ∧ exec i s = .next s.dropWrite) := by
  cases h : s.flight with
  | none => exact .inl ⟨rfl, exec_idle h i⟩
  | some f =>
    by_cases hi : f.instr = i
    · exact .inr (.inl ⟨f, rfl, hi, hi ▸ exec_own h⟩)
    · refine .inr (.inr ⟨f, rfl, hi, ?_⟩)
      cases i <;> cases f <;>
        simp_all [exec, execModexp, execModmul, execEgcd, execPtest, execPgen, InFlight.instr]

/-! The starts: an accept-time error, or the command in flight -/

/-- What a start does: it completes with an error of its own, or puts the command in flight. -/
theorem startOf_cases (i : Instr) (s : State) :
    (∃ e, e ≠ .noError ∧ startOf i s = s.complete e false) ∨
    (∃ f, f.instr = i ∧ startOf i s = s.launch f) := by
  cases i with
  | modexp rd rs1 rs2 rs3 =>
    by_cases h : s.uval rs3 = 0
    · exact .inl ⟨.modZero, by simp, by simp [startOf, startModexp, h]⟩
    · exact .inr ⟨.modexp rd rs1 rs2 rs3 (s.uval rs1) (s.uval rs2) (s.uval rs3), rfl, by simp [startOf, startModexp, h]⟩
  | modmul rd rs1 rs2 rs3 =>
    by_cases h : s.uval rs3 = 0
    · exact .inl ⟨.modZero, by simp, by simp [startOf, startModmul, h]⟩
    · exact .inr ⟨.modmul rd rs1 rs2 rs3 (s.uval rs1) (s.uval rs2) (s.uval rs3), rfl, by simp [startOf, startModmul, h]⟩
  | egcd rd rd2 rd3 rs1 rs2 sgn => exact .inr ⟨.egcd rd rd2 rd3 rs1 rs2 sgn _ _, rfl, rfl⟩
  | ptest rs1 =>
    by_cases h : s.rounds = 0 ∨ s.uval rs1 < 3
    · exact .inl ⟨.operand, by simp, if_pos h⟩
    · exact .inr ⟨.ptest rs1 (.fresh (s.uval rs1)), rfl, if_neg h⟩
  | pgen rd bits =>
    by_cases h : s.rounds = 0 ∨ bits.toNat < 2 ∨ s.cfg.w < bits.toNat
    · exact .inl ⟨.operand, by simp, if_pos h⟩
    · exact .inr ⟨.pgen rd bits 0 .needCandidate, rfl, if_neg h⟩

/-- What the accept step of an idle block does (R47): it completes with an error, records an unwritten source, or puts
the command in flight. The registers and everything but the status, the read-back and the fault record stay. -/
theorem accept_start_cases (s : State) (i : Instr) :
    (∃ e, e ≠ .noError ∧ s.accept i (startOf i) = (s.beginAccept (encode i)).complete e false) ∨
    (∃ r j, i.wellFormed = true ∧ s.firstUnwritten (sourcesOf i) = some (r, j) ∧
      s.accept i (startOf i) = (s.beginAccept (encode i)).recordFault (.unwrittenRead r j)) ∨
    (∃ f, f.instr = i ∧ i.wellFormed = true ∧ s.firstUnwritten (sourcesOf i) = none ∧
      s.accept i (startOf i) = (s.beginAccept (encode i)).launch f) := by
  obtain ⟨-, h⟩ | ⟨hw, r, j, h1, h2⟩ | ⟨hw, h1, h2⟩ := s.accept_cases i (startOf i)
  · exact .inl ⟨.illegal, by simp, h⟩
  · exact .inr (.inl ⟨r, j, hw, h1, h2⟩)
  · obtain ⟨e, he, h3⟩ | ⟨f, hf, h3⟩ := startOf_cases i (s.beginAccept (encode i))
    · exact .inl ⟨e, he, h2.trans h3⟩
    · exact .inr (.inr ⟨f, hf, hw, h1, h2.trans h3⟩)

/-! The engine steps of the commands without draws -/

/-- EGCD's completion, its two branches (R185). -/
theorem finishEgcd_cases (rd rd2 rd3 : Reg) (sgn : Bool) (a b : Int) (s : State) :
    ((if sgn then fitsS s.cfg.w (extendedGcd a b).1 else fitsU s.cfg.w (extendedGcd a b).1) = true ∧
      fitsS s.cfg.w (extendedGcd a b).2.1 = true ∧ fitsS s.cfg.w (extendedGcd a b).2.2 = true ∧
      finishEgcd rd rd2 rd3 sgn a b s =
        (((s.writeBig rd (if sgn then encS s.cfg.ww (extendedGcd a b).1 else encU s.cfg.ww (extendedGcd a b).1.toNat)).writeBig
          rd2 (encS s.cfg.ww (extendedGcd a b).2.1)).writeBig rd3 (encS s.cfg.ww (extendedGcd a b).2.2)).complete
          .noError false) ∨
    (((if sgn then fitsS s.cfg.w (extendedGcd a b).1 else fitsU s.cfg.w (extendedGcd a b).1) = false ∨
      fitsS s.cfg.w (extendedGcd a b).2.1 = false ∨ fitsS s.cfg.w (extendedGcd a b).2.2 = false) ∧
      finishEgcd rd rd2 rd3 sgn a b s = s.complete .range false) := by
  unfold finishEgcd
  rcases extendedGcd a b with ⟨g, x, y⟩
  simp only
  generalize (if sgn then fitsS s.cfg.w g else fitsU s.cfg.w g) = okg
  generalize fitsS s.cfg.w x = okx
  generalize fitsS s.cfg.w y = oky
  cases okg <;> cases okx <;> cases oky <;> simp

end Sys2Proof.Machine
end

