-- ==== Sys2Proof/Laws/PerInstr.lean ====
section
/-! SUPPORT. The per-instruction family `EncodesItsRow`: the word of an instruction matches its own row of R99, the
opcode field included, at every value of its fields. -/

namespace Sys2Proof.Laws.EncodesItsRow

/-- The row of R99 of an instruction: its mask and its match. -/
def row : Instr → Word × Word
  | .modexp _ _ _ _ => (0xFFF8888F, 0x00000001)
  | .modmul _ _ _ _ => (0xFFF8888F, 0x00000002)
  | .egcd _ _ _ _ _ _ => (0xE88F888F, 0x00000003)
  | .ptest _ => (0xFFFFF8FF, 0x00000004)
  | .pgen _ _ => (0x0000FF8F, 0x00000005)

/-- The word of `i` has the pattern of its row, and its opcode field is the row's. -/
def Statement (i : Instr) : Prop :=
  matchesRow (row i).1 (row i).2 (encode i) = true ∧ (encode i).extractLsb' 0 4 = (row i).2.extractLsb' 0 4

/-- The opcode field of a format R word (R91). -/
theorem formatR_op (op : BitVec 4) (rd rs1 rs2 rs3 rd2 rd3 : Reg) (sgn : Bool) :
    (formatR op rd rs1 rs2 rs3 rd2 rd3 sgn).extractLsb' 0 4 = op := by
  apply BitVec.eq_of_getLsbD_eq
  intro i hi
  rw [BitVec.getLsbD_extractLsb', formatR_getLsbD _ _ _ _ _ _ _ _ (by omega)]
  simp [hi]

/-- The opcode field of a format I word (R92). -/
theorem formatI_op (op : BitVec 4) (rd : Reg) (imm : BitVec 16) : (formatI op rd imm).extractLsb' 0 4 = op := by
  apply BitVec.eq_of_getLsbD_eq
  intro i hi
  rw [BitVec.getLsbD_extractLsb', formatI_getLsbD _ _ _ (by omega)]
  simp [hi]

theorem modexp (rd rs1 rs2 rs3 : Reg) : Statement (.modexp rd rs1 rs2 rs3) := by
  refine ⟨?_, formatR_op ..⟩
  simp only [encode, row, matchesRow_iff]
  intro i hi
  rw [formatR_getLsbD _ _ _ _ _ _ _ _ hi]
  interval_cases i <;> simp

theorem modmul (rd rs1 rs2 rs3 : Reg) : Statement (.modmul rd rs1 rs2 rs3) := by
  refine ⟨?_, formatR_op ..⟩
  simp only [encode, row, matchesRow_iff]
  intro i hi
  rw [formatR_getLsbD _ _ _ _ _ _ _ _ hi]
  interval_cases i <;> simp

theorem egcd (rd rd2 rd3 rs1 rs2 : Reg) (sgn : Bool) : Statement (.egcd rd rd2 rd3 rs1 rs2 sgn) := by
  refine ⟨?_, formatR_op ..⟩
  simp only [encode, row, matchesRow_iff]
  intro i hi
  rw [formatR_getLsbD _ _ _ _ _ _ _ _ hi]
  interval_cases i <;> simp

theorem ptest (rs1 : Reg) : Statement (.ptest rs1) := by
  refine ⟨?_, formatR_op ..⟩
  simp only [encode, row, matchesRow_iff]
  intro i hi
  rw [formatR_getLsbD _ _ _ _ _ _ _ _ hi]
  interval_cases i <;> simp

theorem pgen (rd : Reg) (bits : BitVec 16) : Statement (.pgen rd bits) := by
  refine ⟨?_, formatI_op ..⟩
  simp only [encode, row, matchesRow_iff]
  intro i hi
  rw [formatI_getLsbD _ _ _ hi]
  interval_cases i <;> simp

end Sys2Proof.Laws.EncodesItsRow
end

