-- ==== Sys2Proof/Laws/Step.lean ====
section
/-! SUPPORT. What a step can do, by whose turn it is: the engine, a hardware reset, or a host access, which is outside
the window, refused, a read, or a write. -/

namespace Sys2Proof.Machine

/-- The state that the engine's turn works on: the turn is taken off the list, if it was named. -/
theorem step_engine {s : State} (h : s.turns = [] ∨ ∃ rest, s.turns = .engine :: rest) :
    step s = engineTurn (s.withTurns s.turns.tail) := by
  obtain h | ⟨rest, h⟩ := h
  · have e : s.withTurns [] = s := by rw [← h]; rfl
    simp only [step, move, h, List.tail, e]
  · simp only [step, move, h, takeTurn, List.tail]

/-- A host turn serves the access. -/
theorem step_host {s : State} {a : Access} {rest : List Turn} (h : s.turns = .host a :: rest) :
    step s = serve a (s.withTurns rest) := by
  simp only [step, move, h, takeTurn]

/-- A hardware reset turn. -/
theorem step_hardReset {s : State} {rest : List Turn} (h : s.turns = .hardReset :: rest) :
    step s = .next (s.withTurns rest).hardReset := by
  simp only [step, move, h, takeTurn]

/-- Whose turn it is. -/
theorem turns_cases (s : State) :
    (s.turns = [] ∨ ∃ rest, s.turns = .engine :: rest) ∨ (∃ a rest, s.turns = .host a :: rest) ∨
      ∃ rest, s.turns = .hardReset :: rest := by
  cases h : s.turns with
  | nil => exact .inl (.inl rfl)
  | cons t rest =>
    cases t with
    | host a => exact .inr (.inl ⟨a, rest, rfl⟩)
    | engine => exact .inl (.inr ⟨rest, rfl⟩)
    | hardReset => exact .inr (.inr ⟨rest, rfl⟩)

/-- The offset of an address of the window, counted from the base. -/
theorem offsetOf_add {base off : Nat} (h : off < 0x4000) : offsetOf base (base + off) = some off := by
  simp [offsetOf, h]

theorem offsetOf_eq_some {base addr off : Nat} : offsetOf base addr = some off ↔ addr = base + off ∧ off < 0x4000 := by
  simp only [offsetOf]
  split
  · simp only [Option.some.injEq]; omega
  · simp only [reduceCtorEq, false_iff]; omega

/-- What serving an access does. -/
theorem serve_cases (a : Access) (s : State) :
    (offsetOf s.cfg.base a.addr = none ∧ serve a s = .next { s with resp := none }) ∨
    (∃ off, offsetOf s.cfg.base a.addr = some off ∧ admitted s.cfg.ww off a.size = none ∧
      serve a s = .next ((s.respondFree true).recordFault (.hostBusError off))) ∨
    (∃ off t, offsetOf s.cfg.base a.addr = some off ∧ admitted s.cfg.ww off a.size = some t ∧ a.write = true ∧
      serve a s = busWrite t a.wdata (s.respondFree false)) ∨
    (∃ off t, offsetOf s.cfg.base a.addr = some off ∧ admitted s.cfg.ww off a.size = some t ∧ a.write = false ∧
      serve a s = .next (s.busRead t)) := by
  unfold serve
  cases h : offsetOf s.cfg.base a.addr with
  | none => exact .inl ⟨rfl, rfl⟩
  | some off =>
    cases h2 : admitted s.cfg.ww off a.size with
    | none => exact .inr (.inl ⟨off, rfl, h2, by simp only [h2]⟩)
    | some t =>
      cases h3 : a.write with
      | true => exact .inr (.inr (.inl ⟨off, t, rfl, h2, rfl, by simp [h2]⟩))
      | false => exact .inr (.inr (.inr ⟨off, t, rfl, h2, rfl, by simp [h2]⟩))

/-- The BR word at a listed offset (R29). -/
theorem admitted_brWord {ww j : Nat} (r : Reg) (hj : j < ww) (hw : ww ≤ 256) :
    admitted ww (0x1000 + 0x400 * r.toNat + 4 * j) 4 = some (.brWord r j) := by
  have hr : r.toNat < 8 := r.isLt
  have e1 : (0x1000 + 0x400 * r.toNat + 4 * j) % 4 = 0 := by omega
  have e2 : (0x1000 + 0x400 * r.toNat + 4 * j) % 0x400 / 4 = j := by omega
  have e3 : (0x1000 + 0x400 * r.toNat + 4 * j - 0x1000) / 0x400 = r.toNat := by omega
  have e4 : 0x1000 ≤ 0x1000 + 0x400 * r.toNat + 4 * j ∧ 0x1000 + 0x400 * r.toNat + 4 * j < 0x3000 := by omega
  rw [admitted, if_pos ⟨rfl, e1⟩]
  generalize 0x1000 + 0x400 * r.toNat + 4 * j = off at *
  unfold targetAt
  split <;> first | omega | skip
  rw [if_pos ⟨e4.1, e4.2, e1, by omega⟩, e2, e3]
  simp

/-- The targets and their offsets (R29). -/
theorem admitted_eq_some {ww off size : Nat} {t : Target} (h : admitted ww off size = some t) :
    size = 4 ∧ off % 4 = 0 ∧
      ((t = .id ∧ off = 0x000) ∨ (t = .param ∧ off = 0x004) ∨ (t = .ctrl ∧ off = 0x008) ∨ (t = .status ∧ off = 0x00C) ∨
        (t = .cmd ∧ off = 0x010) ∨ (t = .rounds ∧ off = 0x014) ∨ (t = .retry ∧ off = 0x018) ∨
        (t = .drawlim ∧ off = 0x01C) ∨ (t = .candcnt ∧ off = 0x020) ∨
        ∃ r : Reg, ∃ j < ww, t = .brWord r j ∧ off = 0x1000 + 0x400 * r.toNat + 4 * j) := by
  unfold admitted at h
  split at h
  · next h0 =>
    refine ⟨h0.1, h0.2, ?_⟩
    unfold targetAt at h
    split at h
    all_goals first
      | (simp only [Option.some.injEq] at h; subst h; simp)
      | skip
    split at h
    · next h1 =>
      simp only [Option.some.injEq] at h
      subst h
      iterate 9 right
      refine ⟨_, _, h1.2.2.2, rfl, ?_⟩
      have : (off - 0x1000) / 0x400 < 8 := by omega
      rw [BitVec.toNat_ofNat, Nat.mod_eq_of_lt (by omega)]
      omega
    · simp at h
  · simp at h

/-- A write of an admitted word of the window is that target's write, after the port has answered. -/
theorem step_write {s : State} {off : Nat} {d : Word} {rest : List Turn} {t : Target}
    (h : s.turns = .host { addr := s.cfg.base + off, write := true, size := 4, wdata := d } :: rest)
    (ho : off < 0x4000) (ha : admitted s.cfg.ww off 4 = some t) :
    step s = busWrite t d ((s.withTurns rest).respondFree false) := by
  rw [step_host h]
  simp [serve, offsetOf_add ho, ha]

/-- A read of an admitted word of the window is that target's read. -/
theorem step_read {s : State} {off : Nat} {d : Word} {rest : List Turn} {t : Target}
    (h : s.turns = .host { addr := s.cfg.base + off, write := false, size := 4, wdata := d } :: rest)
    (ho : off < 0x4000) (ha : admitted s.cfg.ww off 4 = some t) : step s = .next ((s.withTurns rest).busRead t) := by
  rw [step_host h]
  simp [serve, offsetOf_add ho, ha]

/-- What a host turn does: a next state without a change to the block, a read, or the write of an admitted target. -/
theorem step_host_cases {s : State} {a : Access} {rest : List Turn} (h : s.turns = .host a :: rest) :
    (offsetOf s.cfg.base a.addr = none ∧ step s = .next { s.withTurns rest with resp := none }) ∨
    (∃ off, a.addr = s.cfg.base + off ∧ off < 0x4000 ∧ admitted s.cfg.ww off a.size = none ∧
      step s = .next (((s.withTurns rest).respondFree true).recordFault (.hostBusError off))) ∨
    (∃ off t, a.addr = s.cfg.base + off ∧ off < 0x4000 ∧ admitted s.cfg.ww off a.size = some t ∧ a.write = true ∧
      step s = busWrite t a.wdata ((s.withTurns rest).respondFree false)) ∨
    (∃ off t, a.addr = s.cfg.base + off ∧ off < 0x4000 ∧ admitted s.cfg.ww off a.size = some t ∧ a.write = false ∧
      step s = .next ((s.withTurns rest).busRead t)) := by
  rw [step_host h]
  obtain ⟨h1, h2⟩ | ⟨o, h1, h2, h3⟩ | ⟨o, t, h1, h2, h3, h4⟩ | ⟨o, t, h1, h2, h3, h4⟩ := serve_cases a (s.withTurns rest)
  · exact .inl ⟨h1, h2⟩
  · exact .inr (.inl ⟨o, (offsetOf_eq_some.mp h1).1, (offsetOf_eq_some.mp h1).2, h2, h3⟩)
  · exact .inr (.inr (.inl ⟨o, t, (offsetOf_eq_some.mp h1).1, (offsetOf_eq_some.mp h1).2, h2, h3, h4⟩))
  · exact .inr (.inr (.inr ⟨o, t, (offsetOf_eq_some.mp h1).1, (offsetOf_eq_some.mp h1).2, h2, h3, h4⟩))

/-- A CMD write while idle: the decoded command's accept step, or an illegal word's. -/
theorem issue_idle {s : State} (c : Word) (h : s.flight = none) :
    (∃ i, decode c = .ok i ∧ issue c s = .next (s.accept i (startOf i))) ∨
    (∃ e, decode c = .error e ∧ issue c s = .next (s.acceptIllegal c)) := by
  simp only [issue, State.busy, h, Option.isSome_none, Bool.false_eq_true, if_false]
  cases decode c with
  | ok i => exact .inl ⟨i, rfl, exec_idle h i⟩
  | error e => exact .inr ⟨e, rfl, rfl⟩

/-- A CMD write while BUSY is dropped (R66). -/
theorem issue_busy {s : State} {f : InFlight} (c : Word) (h : s.flight = some f) : issue c s = .next s.dropWrite := by
  simp [issue, State.busy, h]

end Sys2Proof.Machine
end

