-- ==== Sys2Proof/Tests/Slice0.lean ====
section
/-! SUPPORT. Tests of the model on the spec's own words and vectors (R105; E, X, Y, G, T, Q and B are the tables of
spec/95_test_vectors.md), and for each statement with hypotheses a witness that meets them. -/

namespace Sys2Proof.Tests

open Sys2Proof.Machine

/- One proof at a time: each kernel evaluation waits for the declarations before it, and many at once would hold a thread
each. -/
set_option Elab.async false

/-! ## Helpers -/

/-- The block with parameters `p` after reset, with some BR words written. -/
def written (p : Params) (l : List (Reg × Nat × Word)) : State :=
  l.foldl (fun s x => s.writeWord x.1 x.2.1 x.2.2) (State.resetOf p)

/-- `f` in flight, as the accept step leaves it. -/
def flying (s : State) (f : InFlight) : State := (s.beginAccept (encode f.instr)).launch f

/-- `s` with draws at hand. -/
def withDraws (s : State) (l : List (Option Nat)) : State := { s with entropy := l }

/-- The answer is a next state that passes `p`. -/
def nextIs (r : Result) (p : State → Bool) : Bool :=
  match r with
  | .next t => p t
  | _ => false

theorem exists_next {r : Result} {p : State → Bool} (h : nextIs r p = true) : ∃ t, r = .next t ∧ p t = true := by
  cases r with
  | next t => exact ⟨t, rfl, h⟩
  | fault | refused => cases h

/-- BR0 = 4, BR1 = 13, BR2 = 497, BR3 = 0, nothing in flight. -/
def idle : State := written Config.block [(0, 0, 4), (1, 0, 13), (2, 0, 497), (3, 0, 0)]

/-- The widest block, its last word written. -/
def wide : State := written { ww := 256, base := 0 } [(7, 255, 0xFFFFFFFF)]

/-- The same block, BUSY. -/
def wideBusy : State := flying wide (.ptest 7 { n := 23, rounds := 0, draws := 0, seen := [] })

def modexpRuns : State := flying idle (.modexp 3 0 1 2 4 13 497)
def modmulRuns : State := flying idle (.modmul 3 0 1 2 4 13 497)
def egcdRuns : State := flying idle (.egcd 5 6 7 0 1 true 4 (-6))

/-- PTEST of 23 with base 5 seen, one round short of ROUNDS. -/
def ptestRuns : State := flying { idle with rounds := 2 } (.ptest 2 { n := 23, rounds := 1, draws := 1, seen := [5] })

/-- PGEN of 5 bits before its next candidate, one candidate behind it. -/
def pgenRuns : State := flying { idle with rounds := 2 } (.pgen 6 5 1 .needCandidate)

/-- PGEN testing 23, base 5 seen. -/
def pgenTests : State :=
  flying { idle with rounds := 2 } (.pgen 6 5 1 (.testing { n := 23, rounds := 1, draws := 1, seen := [5] }))

theorem inv_idle {s : State} (h1 : s.cfg.wf) (h2 : ∀ r, (s.reg r).length = s.cfg.ww) (h3 : s.prime = false)
    (h4 : s.flight = none) : s.Inv :=
  ⟨h1, h2, by simp [h3], by simp [State.flightOk, h4]⟩

theorem inv_flying {s : State} {f : InFlight} (h1 : s.cfg.wf) (h2 : ∀ r, (s.reg r).length = s.cfg.ww)
    (h3 : f.instr.wellFormed = true) (h4 : f.ok s) : (flying s f).Inv := by
  refine ⟨h1, h2, by simp [flying], rfl, rfl, rfl, rfl, h3, ?_⟩
  cases f <;> exact h4

theorem inv_of_idle : idle.Inv := inv_idle (by decide) (by decide) rfl rfl

theorem inv_of_wide : wide.Inv := inv_idle (by decide) (by decide +kernel) rfl rfl

theorem inv_of_modexpRuns : modexpRuns.Inv :=
  inv_flying (by decide) (by decide) rfl ⟨by decide, by decide, by decide, by decide⟩

theorem inv_of_modmulRuns : modmulRuns.Inv :=
  inv_flying (by decide) (by decide) rfl ⟨by decide, by decide, by decide, by decide⟩

theorem inv_of_egcdRuns : egcdRuns.Inv :=
  inv_flying (by decide) (by decide) (by decide) ⟨⟨by decide, by decide⟩, ⟨by decide, by decide⟩⟩

theorem inv_of_ptestRuns : ptestRuns.Inv :=
  inv_flying (by decide) (by decide) rfl
    ⟨⟨by decide, by decide, by decide, by decide, by decide, by decide, by decide⟩, by decide⟩

theorem inv_of_pgenRuns : pgenRuns.Inv :=
  inv_flying (by decide) (by decide) rfl ⟨by decide, by decide, by decide, by decide, trivial⟩

theorem inv_of_pgenTests : pgenTests.Inv :=
  inv_flying (by decide) (by decide) rfl ⟨by decide, by decide, by decide, by decide, by decide,
    ⟨by decide, by decide, by decide, by decide, by decide, by decide, by decide⟩, by decide, by decide, by decide⟩

/-! ## Well-formedness (R95, R98) -/

theorem test_wellFormed_rejects_rd_rd2 : Instr.wellFormed (.egcd 2 2 4 0 1 false) = false := by decide

theorem test_wellFormed_rejects_rd_rd3 : Instr.wellFormed (.egcd 2 4 2 0 1 true) = false := by decide

theorem test_wellFormed_rejects_rd2_rd3 : Instr.wellFormed (.egcd 4 2 2 0 1 false) = false := by decide

theorem test_wellFormed_accepts_aliased_sources :
    Instr.wellFormed (.egcd 2 3 4 2 2 true) = true ∧ Instr.wellFormed (.modexp 0 0 0 0) = true := by decide

/-! ## Words written out from the formats of R91 and R92 -/

/-- `modexp br7, br6, br5, br4`: 000 S 0 RD3 0 RD2 0 RS3 0 RS2 0 RS1 0 RD OP. -/
theorem test_decode_modexp : decode 0b000_0_0_000_0_000_0_100_0_101_0_110_0_111_0001 = .ok (.modexp 7 6 5 4) := by decide

/-- `modsq br1, br1, br2` is `modmul br1, br1, br1, br2` (Y8, R103). -/
theorem test_decode_modmul : decode 0b000_0_0_000_0_000_0_010_0_001_0_001_0_001_0010 = .ok (.modmul 1 1 1 2) := by decide

theorem test_decode_egcd : decode 0b000_0_0_110_0_101_0_000_0_111_0_011_0_001_0011 = .ok (.egcd 1 5 6 3 7 false) := by decide

theorem test_decode_egcd_signed :
    decode 0b000_1_0_001_0_010_0_000_0_011_0_100_0_101_0011 = .ok (.egcd 5 2 1 4 3 true) := by decide

theorem test_decode_ptest : decode 0b000_0_0_000_0_000_0_000_0_000_0_001_0_000_0100 = .ok (.ptest 1) := by decide

/-- `pgen br6, 65535` (Q17): IMM16, nine zeros, RD, OP. -/
theorem test_decode_pgen : decode 0b1111111111111111_000000000_110_0101 = .ok (.pgen 6 65535) := by decide

/-- E7, E8: reserved opcodes. -/
theorem test_decode_reserved_opcodes :
    decode 0x00000000 = .error .reservedOpcode ∧ decode 0x0000000F = .error .reservedOpcode ∧
      decode 0x00000006 = .error .reservedOpcode := by decide

/-- E11 to E18: a bit set outside the opcode's fields. -/
theorem test_decode_reserved_bits :
    ∀ c ∈ [0x10021031, 0x00121031, 0x00000514, 0x10000504, 0x000000E5, 0x00060165, 0x04311023, 0x84301023],
      decode (BitVec.ofNat 32 c) = .error .reservedBits := by decide

/-- E20, E21: aliased destinations. -/
theorem test_decode_aliased :
    decode 0x00004023 = .error .aliasedDestinations ∧ decode 0x00000003 = .error .aliasedDestinations := by decide

/-- The table's numbering is the word's own. -/
theorem test_decodeTableWord : decodeTableWord 32 0x00021031 = some (.modexp 3 0 1 2) ∧ decodeTableWord 32 0xF = none := by
  decide

/-- From reset, the next step runs the placed word: `pgen br6, 5` starts. -/
theorem test_withFetchWord_runs :
    nextIs (step (State.reset.withFetchWord 32 0x00050065)) (fun t => t.flight == some (.pgen 6 5 0 .needCandidate)) = true := by
  decide +kernel

/-- E7: an illegal word completes in its CMD write with STATUS 0x12. -/
theorem test_illegal_word_completes :
    nextIs (issue 0 idle) (fun t => t.statusWord == 0x12 && t.cmdLast == 0) = true := by decide +kernel

/-! ## Steps -/

/-- X1 (R167): 4^13 mod 497 = 445, STATUS 0x02. -/
theorem test_modexp_power :
    nextIs (exec (.modexp 3 0 1 2) modexpRuns) (fun t => t.uval 3 == 445 && t.statusWord == 0x02) = true := by
  decide +kernel

/-- X11: the modulus 0 ends at accept with STATUS 0x22 and the destination unchanged. -/
theorem test_modexp_mod_zero :
    nextIs (exec (.modexp 2 0 1 3) idle) (fun t => t.uval 2 == 497 && t.statusWord == 0x22) = true := by decide +kernel

/-- Y1 (R170): (2^32 - 1)^2 mod (2^32 - 5) = 16. -/
theorem test_modmul_product :
    nextIs (exec (.modmul 3 0 1 2) (flying idle (.modmul 3 0 1 2 0xFFFFFFFF 0xFFFFFFFF 0xFFFFFFFB)))
      (fun t => t.uval 3 == 16 && t.statusWord == 0x02) = true := by decide +kernel

/-- Y3: the modulus 0 ends at accept with STATUS 0x22. -/
theorem test_modmul_mod_zero : nextIs (exec (.modmul 3 0 1 3) idle) (fun t => t.statusWord == 0x22) = true := by
  decide +kernel

/-- G1 (R189): 17 and 3120 give 1, -367 and 2. -/
theorem test_egcd_unsigned :
    nextIs (exec (.egcd 2 3 4 0 1 false) (flying idle (.egcd 2 3 4 0 1 false 17 3120)))
      (fun t => t.uval 2 == 1 && t.uval 3 == 0xFFFFFE91 && t.uval 4 == 2 && t.statusWord == 0x02) = true := by
  decide +kernel

/-- G17 (R187 e): the most negative operand and -1, whose quotient exceeds 32 bits. -/
theorem test_egcd_signed :
    nextIs (exec (.egcd 2 3 4 0 1 true) (flying idle (.egcd 2 3 4 0 1 true (-2147483648) (-1))))
      (fun t => t.uval 2 == 0xFFFFFFFF && t.uval 3 == 0 && t.uval 4 == 1) = true := by decide +kernel

/-- T3 (R126): the base 5, odd and seen, is skipped. -/
theorem test_ptest_skip :
    nextIs (exec (.ptest 2) (withDraws ptestRuns [some 5]))
      (fun t => t.flight == some (.ptest 2 { n := 23, rounds := 1, draws := 2, seen := [5] })) = true := by decide +kernel

/-- T1: 3^340 mod 341 = 56, so 341 is composite: STATUS 0x02. -/
theorem test_ptest_composite :
    nextIs (exec (.ptest 2)
      (withDraws (flying { idle with rounds := 2 } (.ptest 2 { n := 341, rounds := 1, draws := 1, seen := [2] })) [some 3]))
      (fun t => t.statusWord == 0x02 && t.drawIdx == 1) = true := by decide +kernel

/-- Q4: the draw 28 of 6 bits gives the candidate 61. -/
theorem test_pgen_candidate :
    nextIs (exec (.pgen 6 6) (withDraws (flying idle (.pgen 6 6 0 .needCandidate)) [some 28]))
      (fun t => t.flight == some (.pgen 6 6 1 (.testing { n := 61, rounds := 0, draws := 0, seen := [] }))) = true := by
  decide +kernel

/-- Q1, last step: base 2 passes for 23, so BR6 = 23, STATUS 0x06 and CANDCNT = 1 behind one candidate. -/
theorem test_pgen_success :
    nextIs (exec (.pgen 6 5) (withDraws pgenTests [some 2]))
      (fun t => t.uval 6 == 23 && t.statusWord == 0x06 && t.candcnt == 1) = true := by decide +kernel

/-- R37: with DRAWLIM = 0 a PGEN completes with ERR_EXHAUSTED at its first engine step, STATUS 0x52; R133 and R136 count the
candidate it drew. A failed draw is Q11's. -/
theorem test_pgen_drawlim_zero :
    nextIs (exec (.pgen 6 5) (withDraws (flying { idle with drawlim := 0 } (.pgen 6 5 0 .needCandidate)) [some 8]))
        (fun t => t.statusWord == 0x52 && t.candcnt == 1) = true ∧
      nextIs (exec (.pgen 6 5) (withDraws (flying { idle with drawlim := 0 } (.pgen 6 5 0 .needCandidate)) [none]))
        (fun t => t.statusWord == 0x62 && t.candcnt == 1) = true := by decide +kernel

/-! ## Bus (B5 to B15) -/

/-- The port's response to one access. -/
def portAfter (s : State) (a : Turn) : Option Response :=
  match step (s.withTurns [a]) with
  | .next t => t.resp
  | _ => none

/-- B6, B7: a size of 2, an odd word, a word past WW: an error, and the fault is recorded. -/
theorem test_bus_errors :
    ∀ x ∈ [(0x000, 2), (0x002, 4), (0x024, 4), (0x1004, 4)],
      nextIs (step (idle.withTurns [.host { addr := 0x40000000 + x.1, write := false, size := x.2, wdata := 0 }]))
        (fun t => (t.resp.map Response.err == some true) && t.fault == some (.hostBusError x.1)) = true := by decide +kernel

/-- B10: a write of ROUNDS drops the reserved bits. -/
theorem test_bus_rounds :
    nextIs (step (idle.withTurns [hostWrite idle 0x014 0x00012345])) (fun t => t.rounds == 0x2345) = true := by
  decide +kernel

/-- B11, B12: CTRL writes: SRST wins; IE is kept and the reserved bits dropped. -/
theorem test_bus_ctrl :
    nextIs (step (idle.withTurns [hostWrite idle 0x008 7])) (fun t => t.ctrlWord == 0) = true ∧
      nextIs (step (idle.withTurns [hostWrite idle 0x008 0xFFFFFFFB])) (fun t => t.ctrlWord == 1) = true := by
  decide +kernel

/-- B14: a BR word reads back. -/
theorem test_bus_word :
    nextIs (step (State.reset.withTurns [hostWrite State.reset 0x1000 0xD]))
      (fun t => portAfter t (hostRead t 0x1000) == some { rdata := 0xD, err := false }) = true := by decide +kernel

/-- B8, B15: an unwritten word: a host read and a PTEST record the model fault, and no command starts. -/
theorem test_unwritten :
    nextIs (step (State.reset.withTurns [hostRead State.reset 0x1000])) (fun t => t.fault == some (.unwrittenRead 0 0)) =
        true ∧
      nextIs (issue 0x00000104 State.reset)
        (fun t => t.fault == some (.unwrittenRead 1 0) && !t.busy && nextIs (step t) (· == t)) = true := by
  decide +kernel

/-! ## Witnesses: for each statement with hypotheses, what meets them, a line for each clause -/

theorem test_witness_DecodeOfEncode :
    Instr.wellFormed (.pgen 7 0xFFFF) = true ∧ Instr.wellFormed (.egcd 7 6 5 7 7 true) = true ∧
      Instr.wellFormed (.egcd 7 7 7 7 7 true) = false := by decide

theorem test_witness_EncodeOfDecode : decode 0b000_1_0_111_0_110_0_000_0_111_0_111_0_101_0011 = .ok (.egcd 5 6 7 7 7 true) := by
  decide

/-- A legal word of EGCD's row, a word of that row with aliased destinations, an illegal opcode, and an idle block. -/
theorem test_witness_LegalWordsDecode :
    legalWord 0x14301023 ∧ (0x14301023 &&& 0xE88F888F#32 = 3) ∧ ¬ legalWord 0x04201023 ∧ ¬ legalWord 0x00000000 ∧
      idle.flight = none :=
  ⟨by simp [legalWord], by decide, by simp [legalWord], by simp [legalWord], rfl⟩

theorem test_witness_ResetMeetsInvariant :
    Params.wf { ww := 1, base := 0 } ∧ Params.wf { ww := 256, base := 0xFFFFC000 } := by decide

theorem test_witness_StepKeepsInvariant :
    (modexpRuns.Inv ∧ ∃ t, step modexpRuns = .next t) ∧ idle.Inv ∧ ∃ t, step idle = .next t := by
  refine ⟨⟨inv_of_modexpRuns, ?_⟩, inv_of_idle, ?_⟩
  · obtain ⟨t, h, -⟩ := exists_next (r := step modexpRuns) (p := fun _ => true) (by decide +kernel)
    exact ⟨t, h⟩
  · obtain ⟨t, h, -⟩ := exists_next (r := step idle) (p := fun _ => true) (by decide +kernel)
    exact ⟨t, h⟩

theorem test_witness_CommandWriteRunsTheDecodedCommand :
    (idle.withTurns [hostWrite idle 0x010 0x00021031]).turns = hostWrite idle 0x010 0x00021031 :: [] ∧
      idle.flight = none ∧ decode 0x00021031 = .ok (.modexp 3 0 1 2) ∧ decode 0x80021031 = .error .reservedBits := by decide

/-- Both forms of the turn, and each clause: a command in flight, a recorded fault, an idle block. -/
theorem test_witness_EngineTurnRunsTheCommandInFlight :
    (∀ s ∈ [modexpRuns, idle.recordFault (.hostBusError 2), idle],
      s.turns = [] ∧ (s.withTurns [.engine]).turns = .engine :: s.turns ∧ s = (s.withTurns [.engine]).withTurns s.turns) ∧
      modexpRuns.fault = none ∧ modexpRuns.flight = some (.modexp 3 0 1 2 4 13 497) ∧
      (idle.recordFault (.hostBusError 2)).fault = some (.hostBusError 2) ∧ idle.fault = none ∧ idle.flight = none := by
  decide

/-- The first word of the narrowest block and the last word of the widest. -/
theorem test_witness_HostWriteStoresOneWord :
    (idle.Inv ∧ 0 < idle.cfg.ww ∧ idle.flight = none) ∧ wide.Inv ∧ 255 < wide.cfg.ww ∧ wide.flight = none ∧
      (wide.withTurns [hostWrite wide (brOffset 7 255) 1]).turns = hostWrite wide (brOffset 7 255) 1 :: [] :=
  ⟨⟨inv_of_idle, by decide, rfl⟩, inv_of_wide, by decide, rfl, rfl⟩

/-- A written and an unwritten word of the widest block. -/
theorem test_witness_HostReadGivesTheWord :
    wide.cfg.wf ∧ 255 < wide.cfg.ww ∧ (wide.word 7 255).wr = true ∧ (wide.word 0 0).wr = false ∧
      (wide.withTurns [hostRead wide (brOffset 0 0)]).turns = hostRead wide (brOffset 0 0) :: [] := by decide +kernel

theorem test_witness_ControlReads :
    (∀ x ∈ [(0x000, 0x52534101), (0x004, 0x00070001), (0x008, 0x0), (0x00C, 0x1), (0x010, 0x00021031), (0x014, 0x400),
        (0x018, 0xFFFFFFFF), (0x01C, 0xFFFFFFFF), (0x020, 0x0)], controlValue modexpRuns x.1 x.2) ∧
      (modexpRuns.withTurns [hostRead modexpRuns 0]).turns = hostRead modexpRuns 0 :: [] := by decide +kernel

theorem test_witness_ControlWrites :
    ∀ off ∈ [0x014, 0x018, 0x01C, 0x000, 0x004, 0x020], idle.flight = none ∧
      nextIs (step (idle.withTurns [hostWrite idle off 0xFFFFFFFF])) (fun _ => true) = true := by decide +kernel

/-- CTRL with every bit but ABORT and SRST set, and with none, idle and BUSY. -/
theorem test_witness_ControlWrites_ctrl :
    ((0xFFFFFFF9 : Word).getLsbD 2 = false ∧ (0xFFFFFFF9 : Word).getLsbD 1 = false) ∧
      ((0 : Word).getLsbD 2 = false ∧ (0 : Word).getLsbD 1 = false) ∧
      ∀ s ∈ [idle, modexpRuns],
        nextIs (step (s.withTurns [hostWrite s 0x008 0xFFFFFFF9])) (fun t => t.ie && t.flight == s.flight) = true ∧
          nextIs (step ((s.setIe true).withTurns [hostWrite s 0x008 0])) (fun t => !t.ie && t.flight == s.flight) = true := by
  decide +kernel

theorem test_witness_StatusWriteClears :
    (modexpRuns.withTurns [hostWrite modexpRuns 0x00C 0xA]).turns = hostWrite modexpRuns 0x00C 0xA :: [] := by decide

theorem test_witness_BusyWritesAreDropped :
    wideBusy.cfg.wf ∧ wideBusy.flight ≠ none ∧ 255 < wideBusy.cfg.ww ∧
      (∀ off ∈ [0x010, 0x014, 0x018, 0x01C, brOffset 0 0, brOffset 7 255, 0x008, 0x00C, 0x000, 0x004, 0x020],
        nextIs (step (wideBusy.withTurns [hostWrite wideBusy off 6])) (fun _ => true) = true) ∧
      nextIs (step (wideBusy.withTurns [hostRead wideBusy 0x00C])) (fun _ => true) = true ∧
      admitted wideBusy.cfg.ww 0x00C 4 = some .status := by decide +kernel

/-- At the ends of the listed ranges: the last control word and the first and last BR words are served, their neighbours
are not. -/
theorem test_witness_OnlyListedWordsAreServed :
    idle.cfg.wf ∧ (∀ addr ∈ [0, 0x3FFFFFFF, 0x40004000], ¬ (idle.cfg.base ≤ addr ∧ addr < idle.cfg.base + 0x4000) ∧
        nextIs (step (idle.withTurns [.host { addr := addr, write := true, size := 4, wdata := 1 }])) (fun _ => true) = true) ∧
      (∀ off ∈ [0x000, 0x020, 0x1000, 0x2C00], listedOffset idle.cfg.ww off ∧
        nextIs (step (idle.withTurns [hostRead idle off])) (fun _ => true) = true) ∧
      listedOffset wide.cfg.ww 0x2FFC ∧
      ∀ off ∈ [0x001, 0x024, 0xFFC, 0x1004, 0x13FC, 0x2C04, 0x3000, 0x3FFC], ¬ listedOffset idle.cfg.ww off ∧
        nextIs (step (idle.withTurns [hostRead idle off])) (fun _ => true) = true := by
  unfold listedOffset brOffset
  decide +kernel

theorem test_witness_ReadsHaveNoSideEffect :
    nextIs (step (idle.withTurns [.host { addr := 0x40001001, write := false, size := 1, wdata := 0 }])) (fun _ => true) =
      true := by decide +kernel

theorem test_witness_SoftResetActs :
    (modexpRuns.withTurns [hostWrite modexpRuns 0x008 7]).turns = hostWrite modexpRuns 0x008 7 :: [] ∧
      (7 : Word).getLsbD 2 = true := by decide

/-- BUSY with a PGEN, BUSY with another command, and idle. -/
theorem test_witness_AbortActs :
    (∀ s ∈ [pgenTests, modexpRuns, idle], (s.withTurns [hostWrite s 0x008 3]).turns = hostWrite s 0x008 3 :: []) ∧
      (3 : Word).getLsbD 2 = false ∧ (3 : Word).getLsbD 1 = true ∧
      pgenTests.flight = some (.pgen 6 5 1 (.testing { n := 23, rounds := 1, draws := 1, seen := [5] })) ∧
      modexpRuns.flight = some (.modexp 3 0 1 2 4 13 497) ∧ idle.flight = none := by decide

/-- A completion with IE set, a step with IE clear, a STATUS write, and a CTRL write while DONE is set. -/
theorem test_witness_InterruptFollowsCompletion :
    (engineNext (modexpRuns.setIe true) ∧ (modexpRuns.setIe true).flight ≠ none ∧ (modexpRuns.setIe true).ie = true ∧
      nextIs (step (modexpRuns.setIe true)) (fun t => t.flight == none) = true) ∧
      nextIs (step modexpRuns) (fun t => t.ie == false) = true ∧
      (nextIs (step ((idle.complete .range false).withTurns [hostWrite idle 0x00C 2])) (fun _ => true) = true ∧
        (2 : Word).getLsbD 1 = true) ∧
      nextIs (step ((idle.complete .range false).withTurns [hostWrite idle 0x008 0xFFFFFFF9])) (fun _ => true) = true ∧
      ((0xFFFFFFF9 : Word).getLsbD 0 = true ∧ (0xFFFFFFF9 : Word).getLsbD 1 = false ∧
        (0xFFFFFFF9 : Word).getLsbD 2 = false) ∧ (idle.complete .range false).done = true :=
  ⟨⟨.inl rfl, by decide, by decide, by decide +kernel⟩, by decide +kernel, ⟨by decide +kernel, by decide⟩, by decide +kernel,
    by decide, by decide⟩

theorem test_witness_HardwareResetActs : (modexpRuns.withTurns [.hardReset]).turns = .hardReset :: [] := by decide

theorem test_witness_UnwrittenSourceStartsNothing :
    idle.flight = none ∧ Instr.wellFormed (.modmul 0 0 7 1) = true ∧ ¬ sourcesWritten idle (.modmul 0 0 7 1) := by
  unfold sourcesWritten; decide

/-- MODEXP and MODMUL with the modulus 497 and with the modulus 0. -/
theorem test_witness_ModexpAccepts :
    idle.flight = none ∧ sourcesWritten idle (.modexp 3 0 1 2) ∧ idle.uval 2 ≠ 0 ∧
      sourcesWritten idle (.modexp 3 0 1 3) ∧ idle.uval 3 = 0 := by
  unfold sourcesWritten; decide

theorem test_witness_ModmulAccepts :
    idle.flight = none ∧ sourcesWritten idle (.modmul 3 0 1 2) ∧ idle.uval 2 ≠ 0 ∧
      sourcesWritten idle (.modmul 3 0 1 3) ∧ idle.uval 3 = 0 := by
  unfold sourcesWritten; decide

theorem test_witness_EgcdAccepts :
    idle.flight = none ∧ Instr.wellFormed (.egcd 0 1 2 3 3 true) = true ∧ sourcesWritten idle (.egcd 0 1 2 3 3 true) := by
  unfold sourcesWritten; decide

/-- n = 497 starts; n = 0 and ROUNDS = 0 do not. -/
theorem test_witness_PtestAccepts :
    idle.flight = none ∧ sourcesWritten idle (.ptest 2) ∧ ¬ (idle.rounds = 0 ∨ idle.uval 2 < 3) ∧
      sourcesWritten idle (.ptest 3) ∧ idle.uval 3 < 3 ∧ sourcesWritten { idle with rounds := 0 } (.ptest 2) := by
  unfold sourcesWritten; decide

/-- The two ends of BITS for W = 32, and the values beyond them. -/
theorem test_witness_PgenAccepts :
    idle.flight = none ∧
      (∀ b ∈ [2, 32], ¬ (idle.rounds = 0 ∨ (BitVec.ofNat 16 b).toNat < 2 ∨ idle.cfg.w < (BitVec.ofNat 16 b).toNat)) ∧
      ∀ b ∈ [0, 1, 33, 65535],
        idle.rounds = 0 ∨ (BitVec.ofNat 16 b).toNat < 2 ∨ idle.cfg.w < (BitVec.ofNat 16 b).toNat := by decide +kernel

theorem test_witness_AcceptStartsOrCompletes :
    idle.flight = none ∧ ∀ i ∈ [Instr.modexp 3 0 1 2, .modexp 3 0 1 3, .ptest 7, .egcd 1 1 1 7 7 false],
      nextIs (exec i idle) (fun _ => true) = true := by decide +kernel

theorem test_witness_ModexpComputesThePower :
    modexpRuns.Inv ∧ modexpRuns.flight = some (.modexp 3 0 1 2 4 13 497) := ⟨inv_of_modexpRuns, rfl⟩

theorem test_witness_ModexpFromIssueToResult :
    idle.Inv ∧ idle.flight = none ∧ sourcesWritten idle (.modexp 2 0 1 2) ∧ idle.uval 2 ≠ 0 :=
  ⟨inv_of_idle, rfl, by unfold sourcesWritten; decide, by decide⟩

/-- The modulus 1 with the exponent 0 (X3), and the exponent 0 with a modulus above 1 (X2). -/
theorem test_witness_ModexpSpecialCases :
    (∀ m ∈ [1, 5], (flying idle (.modexp 3 0 1 2 0 0 m)).Inv) ∧
      ∀ m ∈ [1, 5], (flying idle (.modexp 3 0 1 2 0 0 m)).flight = some (.modexp 3 0 1 2 0 0 m) := by
  refine ⟨?_, by simp [flying]⟩
  intro m hm
  refine inv_flying (by decide) (by decide) rfl ⟨?_, by decide, by decide, ?_⟩ <;>
    · simp only [List.mem_cons, List.not_mem_nil, or_false] at hm
      obtain rfl | rfl := hm <;> decide

theorem test_witness_ModmulComputesTheProduct :
    modmulRuns.Inv ∧ modmulRuns.flight = some (.modmul 3 0 1 2 4 13 497) := ⟨inv_of_modmulRuns, rfl⟩

theorem euclid_four_minus_six : EuclidRun 4 (-6) 1 0 0 1 (-2, 1, 1) :=
  .step (q := 0) (by decide) (by decide) <| .step (q := -1) (by decide) (by decide) <|
    .step (q := -2) (by decide) (by decide) (.stop ..)

/-- Operands whose results fit, and, for the second clause, a first operand beyond the block's width, which no accept
latches. -/
theorem test_witness_EgcdFollowsTheRecurrence :
    (egcdRuns.Inv ∧ egcdRuns.flight = some (.egcd 5 6 7 0 1 true 4 (-6)) ∧ EuclidRun 4 (-6) 1 0 0 1 (-2, 1, 1) ∧
      egcdFits egcdRuns.cfg.w true (-2) 1 1) ∧
      (flying idle (.egcd 5 6 7 0 1 false 4294967296 0)).flight = some (.egcd 5 6 7 0 1 false 4294967296 0) ∧
      EuclidRun 4294967296 0 1 0 0 1 (4294967296, 1, 0) ∧ ¬ egcdFits idle.cfg.w false 4294967296 1 0 :=
  ⟨⟨inv_of_egcdRuns, rfl, euclid_four_minus_six, ⟨by decide, by decide⟩, ⟨by decide, by decide⟩, ⟨by decide, by decide⟩⟩,
    rfl, .stop .., fun h => absurd h.1.2 (by decide)⟩

theorem test_witness_EgcdGivesBezout :
    egcdRuns.Inv ∧ egcdRuns.flight = some (.egcd 5 6 7 0 1 true 4 (-6)) ∧
      ∃ t, exec (.egcd 5 6 7 0 1 true) egcdRuns = .next t ∧ (t.err == .noError) = true :=
  ⟨inv_of_egcdRuns, rfl, exists_next (p := fun t => t.err == .noError) (by decide +kernel)⟩

theorem test_witness_EgcdNeverRaisesRange :
    egcdRuns.Inv ∧ egcdRuns.flight = some (.egcd 5 6 7 0 1 true 4 (-6)) ∧
      ∃ t, exec (.egcd 5 6 7 0 1 true) egcdRuns = .next t ∧ true = true :=
  ⟨inv_of_egcdRuns, rfl, exists_next (p := fun _ => true) (by decide +kernel)⟩

/-- A range of one value and the range of a PTEST. -/
theorem test_witness_DrawsAreFreeInTheirRange : (2 ≤ 2 ∧ 2 ≤ 22) ∧ 2 ≤ 22 ∧ 22 ≤ 22 := by decide

/-- The ceiling, FAIL, a skip, a failing base, the last passing base, and a passing base before the last. -/
theorem test_witness_PtestStepBranches :
    (({ ptestRuns with drawlim := 1 } : State).flight = ptestRuns.flight ∧
      1 = ({ ptestRuns with drawlim := 1 } : State).drawlim.toNat) ∧
      ptestRuns.flight = some (.ptest 2 { n := 23, rounds := 1, draws := 1, seen := [5] }) ∧
      1 ≠ ptestRuns.drawlim.toNat ∧ ((withDraws ptestRuns [none]).draw 2 22).1 = none ∧
      (∀ a ∈ [5, 2, 22], ((withDraws ptestRuns [some a]).draw 2 22).1 = some a) ∧ (5 ∈ [5] ∧ 5 % 2 = 1) ∧
      ¬ (2 ∈ [5] ∧ 2 % 2 = 1) ∧ 3 ^ 340 % 341 ≠ 1 ∧ 2 ^ 22 % 23 = 1 ∧ 1 + 1 = ptestRuns.rounds.toNat ∧
      1 + 1 ≠ idle.rounds.toNat := by decide +kernel

/-- With DRAWLIM = 0: a PTEST, a PGEN before its first candidate, below RETRY and at RETRY = 0, a draw of it that fails and one
that does not, and a PGEN that tests its first candidate. -/
theorem test_witness_DrawlimZeroExhausts :
    (flying { idle with drawlim := 0 } (.ptest 2 { n := 497, rounds := 0, draws := 0, seen := [] })).Inv ∧
      (flying { idle with drawlim := 0 } (.pgen 6 5 0 .needCandidate)).Inv ∧
      (flying { idle with drawlim := 0 } (.pgen 6 5 1 (.testing (.fresh 23)))).Inv ∧
      (flying { idle with drawlim := 0, retry := 0 } (.pgen 6 5 0 .needCandidate)).Inv ∧
      ({ idle with drawlim := 0 } : State).drawlim = 0 ∧ 0 ≠ ({ idle with drawlim := 0 } : State).retry.toNat ∧
      0 = ({ idle with drawlim := 0, retry := 0 } : State).retry.toNat ∧
      ((withDraws { idle with drawlim := 0 } [none]).draw 0 31).1 = none ∧
      ((withDraws { idle with drawlim := 0 } [some 8]).draw 0 31).1 = some 8 ∧
      InFlight.instr (.ptest 2 { n := 497, rounds := 0, draws := 0, seen := [] }) = .ptest 2 ∧
      InFlight.instr (.pgen 6 5 0 .needCandidate) = .pgen 6 5 :=
  ⟨inv_flying (by decide) (by decide) rfl
      ⟨⟨by decide, by decide, by decide, by decide, by decide, by decide, by decide⟩, by decide⟩,
    inv_flying (by decide) (by decide) rfl ⟨by decide, by decide, by decide, by decide, trivial⟩,
    inv_flying (by decide) (by decide) rfl ⟨by decide, by decide, by decide, by decide, by decide,
      ⟨by decide, by decide, by decide, by decide, by decide, by decide, by decide⟩, by decide, by decide, by decide⟩,
    inv_flying (by decide) (by decide) rfl ⟨by decide, by decide, by decide, by decide, trivial⟩,
    by decide, by decide, by decide, by decide, by decide, by decide, by decide⟩

theorem test_witness_PtestNeverRejectsAPrime :
    (withDraws ptestRuns [some 22]).Inv ∧ Nat.Prime 23 ∧
      ∃ t, exec (.ptest 2) (withDraws ptestRuns [some 22]) = .next t ∧ (t.flight == none && t.err == .noError) = true :=
  ⟨inv_of_ptestRuns, by norm_num, exists_next (p := fun t => t.flight == none && t.err == .noError) (by decide +kernel)⟩

theorem test_witness_PtestTerminates :
    ptestRuns.Inv ∧ ptestRuns.fault = none ∧ ptestRuns.turns = [] ∧
      ptestRuns.flight = some (.ptest 2 { n := 23, rounds := 1, draws := 1, seen := [5] }) :=
  ⟨inv_of_ptestRuns, rfl, rfl, rfl⟩

theorem test_witness_PgenTerminates :
    pgenRuns.Inv ∧ pgenRuns.fault = none ∧ pgenRuns.turns = [] ∧
      pgenRuns.flight = some (.pgen 6 5 1 .needCandidate) :=
  ⟨inv_of_pgenRuns, rfl, rfl, rfl⟩

/-- One candidate behind the step: at the ceiling 1, with DRAWLIM = 0, below both, a failed draw, and the draws 0 and 31. -/
theorem test_witness_PgenCandidateStepBranches :
    pgenRuns.Inv ∧ ({ pgenRuns with retry := 1 } : State).Inv ∧
      1 = ({ pgenRuns with retry := 1 } : State).retry.toNat ∧
      (flying { idle with drawlim := 0 } (.pgen 6 5 0 .needCandidate)).Inv ∧
      ({ idle with drawlim := 0 } : State).drawlim = 0 ∧ 1 ≠ pgenRuns.retry.toNat ∧ pgenRuns.drawlim ≠ 0 ∧
      ((withDraws pgenRuns [none]).draw 0 31).1 = none ∧
      ∀ r ∈ [0, 31], ((withDraws pgenRuns [some r]).draw 0 31).1 = some r :=
  ⟨inv_of_pgenRuns,
    inv_flying (s := { idle with rounds := 2, retry := 1 }) (f := .pgen 6 5 1 .needCandidate) (by decide) (by decide) rfl
      ⟨by decide, by decide, by decide, by decide, trivial⟩,
    by decide, inv_flying (by decide) (by decide) rfl ⟨by decide, by decide, by decide, by decide, trivial⟩,
    by decide, by decide, by decide, by decide, by decide⟩

/-- The branches of a test step: for 23 as for PTEST, and the failing base 2 for 25 (Q1). -/
theorem test_witness_PgenTestStepBranches :
    pgenTests.Inv ∧ (flying { idle with drawlim := 1 } (.pgen 6 5 1 (.testing { n := 23, rounds := 1, draws := 1, seen := [5] }))).Inv ∧
      1 = ({ idle with drawlim := 1 } : State).drawlim.toNat ∧ 1 ≠ pgenTests.drawlim.toNat ∧
      ((withDraws pgenTests [none]).draw 2 22).1 = none ∧
      (∀ a ∈ [5, 2, 22], ((withDraws pgenTests [some a]).draw 2 22).1 = some a) ∧ (5 ∈ [5] ∧ 5 % 2 = 1) ∧
      ¬ (2 ∈ [5] ∧ 2 % 2 = 1) ∧ 2 ^ 24 % 25 ≠ 1 ∧ 2 ^ 22 % 23 = 1 ∧ 1 + 1 = pgenTests.rounds.toNat ∧
      1 + 1 ≠ idle.rounds.toNat :=
  ⟨inv_of_pgenTests,
    inv_flying (by decide) (by decide) rfl ⟨by decide, by decide, by decide, by decide, by decide,
      ⟨by decide, by decide, by decide, by decide, by decide, by decide, by decide⟩, by decide, by decide, by decide⟩,
    by decide, by decide, by decide, by decide, by decide, by decide, by decide, by decide, by decide, by decide⟩

theorem test_witness_PgenResultHasTheBits :
    (withDraws pgenTests [some 2]).Inv ∧
      ∃ t, exec (.pgen 6 5) (withDraws pgenTests [some 2]) = .next t ∧ (t.flight == none && t.err == .noError) = true :=
  ⟨inv_of_pgenTests, exists_next (p := fun t => t.flight == none && t.err == .noError) (by decide +kernel)⟩

/-- The three phases of a MODEXP and a MODMUL: accept, engine step, dropped issue. -/
theorem test_witness_FrameOfModexpAndModmul :
    ∀ i ∈ [Instr.modexp 3 0 1 2, .modmul 3 0 1 2], ∀ s ∈ [idle, modexpRuns, modmulRuns],
      nextIs (exec i s) (fun _ => true) = true := by decide +kernel

theorem test_witness_FrameOfEgcd :
    ∀ s ∈ [idle, egcdRuns, modexpRuns], nextIs (exec (.egcd 5 6 7 0 1 true) s) (fun _ => true) = true := by decide +kernel

theorem test_witness_FrameOfPtest :
    ∀ s ∈ [idle, withDraws ptestRuns [some 2], modexpRuns], nextIs (exec (.ptest 2) s) (fun _ => true) = true := by
  decide +kernel

/-- A step that writes BR6 and CANDCNT, and steps that write neither. -/
theorem test_witness_FrameOfPgen :
    nextIs (exec (.pgen 6 5) (withDraws pgenTests [some 2])) (fun t => t.reg 6 != pgenTests.reg 6 && t.candcnt != 0) = true ∧
      ∀ s ∈ [idle, withDraws pgenRuns [some 8], modexpRuns], nextIs (exec (.pgen 6 5) s) (fun _ => true) = true := by
  decide +kernel

theorem test_witness_ExecWhileAnotherRunsIsDropped :
    modexpRuns.flight = some (.modexp 3 0 1 2 4 13 497) ∧ InFlight.instr (.modexp 3 0 1 2 4 13 497) ≠ .modexp 3 0 1 1 := by
  decide

/-- A host write, a completion and a hardware reset, each of which changes a register. -/
theorem test_witness_WhoWritesABigRegister :
    nextIs (step (idle.withTurns [hostWrite idle 0x1000 9])) (fun t => t.reg 0 != idle.reg 0) = true ∧
      nextIs (step modexpRuns) (fun t => t.reg 3 != modexpRuns.reg 3) = true ∧
      nextIs (step (idle.withTurns [.hardReset])) (fun t => t.reg 0 != idle.reg 0) = true := by decide +kernel

/-- A recorded fault on a host's turn, and on the engine's turn named or not. -/
theorem test_witness_ModelFaultsAreSticky :
    (idle.recordFault (.hostBusError 2)).fault = some (.hostBusError 2) ∧
      nextIs (step ((idle.recordFault (.hostBusError 2)).withTurns [hostRead idle 2])) (fun _ => true) = true ∧
      engineNext (idle.recordFault (.hostBusError 2)) ∧ engineNext ((idle.recordFault (.hostBusError 2)).withTurns [.engine]) :=
  ⟨by decide, by decide +kernel, .inl rfl, .inr ⟨[], rfl⟩⟩

theorem test_witness_InstanceIsConstant :
    nextIs (step (idle.withTurns [.hardReset])) (fun _ => true) = true := by decide +kernel

/-- Two blocks after reset that differ in the content of the unwritten BR7. -/
theorem test_witness_UnwrittenContentsAreInvisible :
    sameButUnwritten State.reset (State.reset.setReg 7 [{ data := 5, wr := false }]) ∧
      State.reset ≠ State.reset.setReg 7 [{ data := 5, wr := false }] := by
  unfold sameButUnwritten
  decide +kernel

theorem test_witness_WhoWritesCandcnt :
    nextIs (step (withDraws pgenTests [some 2])) (fun t => t.candcnt != pgenTests.candcnt) = true ∧
      nextIs (step ((pgenTests.completePgen 1 .aborted false).withTurns [hostWrite idle 0x008 4])) (fun t => t.candcnt != 1) =
        true ∧
      nextIs (step ((pgenTests.completePgen 1 .aborted false).withTurns [.hardReset])) (fun t => t.candcnt != 1) = true := by
  decide +kernel

/-- Set by a write while BUSY; cleared by a STATUS write, a soft reset and a hardware reset. -/
theorem test_witness_WhoChangesOvr :
    (modexpRuns.ovr = false ∧
      nextIs (step (modexpRuns.withTurns [hostWrite idle 0x1000 9])) (fun t => t.ovr) = true) ∧
      idle.dropWrite.ovr = true ∧
      ∀ tn ∈ [hostWrite idle 0x00C 8, hostWrite idle 0x008 4, .hardReset],
        nextIs (step (idle.dropWrite.withTurns [tn])) (fun t => !t.ovr) = true := by decide +kernel

theorem test_witness_WhoSetsPrime :
    ∀ s ∈ [withDraws ptestRuns [some 2], withDraws pgenTests [some 2]], s.prime = false ∧
      nextIs (step s) (fun t => t.prime) = true := by decide +kernel

/-- A write that leaves the command in flight, and the CTRL writes that end it. -/
theorem test_witness_HostCannotChangeAFlight :
    modexpRuns.flight = some (.modexp 3 0 1 2 4 13 497) ∧
      nextIs (step (modexpRuns.withTurns [hostWrite idle 0x014 9])) (fun t => t.flight == modexpRuns.flight) = true ∧
      ∀ d ∈ [2, 4], nextIs (step (modexpRuns.withTurns [hostWrite idle 0x008 (BitVec.ofNat 32 d)]))
        (fun t => t.flight == none) = true := by
  decide +kernel

end Sys2Proof.Tests
end

/-! EGCD's results stay in their ranges at every width (R185): Euclid's loop (R183), read from its last step
backwards, gives coefficients of at most half the operands, but for the two ends `b = 0` and `b ∣ a`. -/

namespace Sys2Proof.Machine

/-! The loop of R183, one step at a time -/

theorem egcdLoop_zero (n : Nat) (a x₀ x y₀ y : Int) : egcdLoop n a 0 x₀ x y₀ y = (a, x₀, y₀) := by
  cases n <;> simp [egcdLoop]

/-- One step of the loop, its remainder written as the truncating remainder (R184 b). -/
theorem egcdLoop_succ {b : Int} (hb : b ≠ 0) (n : Nat) (a x₀ x y₀ y : Int) :
    egcdLoop (n + 1) a b x₀ x y₀ y =
      egcdLoop n b (a.tmod b) x (x₀ - a.tdiv b * x) y (y₀ - a.tdiv b * y) := by
  rw [egcdLoop, if_neg hb, Int.tmod_def, Int.mul_comm b]

/-- The loop is linear in its coefficient registers: a run from `(1, 0)` and `(0, 1)` gives every other run. -/
theorem egcdLoop_linear {n : Nat} {a b g X Y : Int} (h : egcdLoop n a b 1 0 0 1 = (g, X, Y)) (x₀ x y₀ y : Int) :
    egcdLoop n a b x₀ x y₀ y = (g, X * x₀ + Y * x, X * y₀ + Y * y) := by
  induction n generalizing a b g X Y x₀ x y₀ y with
  | zero =>
    obtain ⟨rfl, rfl, rfl⟩ : a = g ∧ 1 = X ∧ 0 = Y := by simpa [egcdLoop] using h
    simp [egcdLoop]
  | succ n ih =>
    by_cases hb : b = 0
    · subst hb
      rw [egcdLoop_zero] at h ⊢
      obtain ⟨rfl, rfl, rfl⟩ : a = g ∧ 1 = X ∧ 0 = Y := by simpa using h
      simp
    · rw [egcdLoop_succ hb] at h ⊢
      rcases hL : egcdLoop n b (a.tmod b) 1 0 0 1 with ⟨g', X', Y'⟩
      rw [ih hL, Prod.mk.injEq, Prod.mk.injEq] at h
      obtain ⟨rfl, rfl, rfl⟩ := h
      rw [ih hL, Prod.mk.injEq, Prod.mk.injEq]
      exact ⟨rfl, by ring, by ring⟩

/-- A run's result from the result of the run that is left after its first step. -/
theorem egcdLoop_unit_succ {n : Nat} {a b g X Y : Int} (hb : b ≠ 0)
    (h : egcdLoop n b (a.tmod b) 1 0 0 1 = (g, X, Y)) :
    egcdLoop (n + 1) a b 1 0 0 1 = (g, Y, X - a.tdiv b * Y) := by
  rw [egcdLoop_succ hb, egcdLoop_linear h]
  ring_nf

/-- `|r|` falls at every step (R184). -/
theorem natAbs_tmod_lt (a : Int) {b : Int} (hb : b ≠ 0) : (a.tmod b).natAbs < b.natAbs := by
  rw [Int.natAbs_tmod]
  exact Nat.mod_lt _ (Int.natAbs_pos.mpr hb)

/-- Quotient and remainder of R14 have no cancellation: the dividend's size is the sum of the two parts' sizes. -/
theorem natAbs_tdiv_add_tmod (a b : Int) : b.natAbs * (a.tdiv b).natAbs + (a.tmod b).natAbs = a.natAbs := by
  rw [Int.natAbs_tdiv, Int.natAbs_tmod]
  exact Nat.div_add_mod _ _

/-! The size of the results -/

/-- How large the results of `extendedGcd(a, b)` can be: the two ends of R187 (a), (b) and (d), and in every other run
coefficients of at most half the other operand, divided by the size of `g`. -/
inductive EgcdBounded (a b : Int) : Int × Int × Int → Prop where
  | zero (hb : b = 0) : EgcdBounded a b (a, 1, 0)
  | dvd (hb : b ≠ 0) (h : b ∣ a) : EgcdBounded a b (b, 0, 1)
  | proper {g X Y : Int} (hg : 0 < g.natAbs) (hgb : 2 * g.natAbs ≤ b.natAbs)
      (hX : 2 * X.natAbs * g.natAbs ≤ b.natAbs) (hY : 2 * Y.natAbs * g.natAbs ≤ a.natAbs) : EgcdBounded a b (g, X, Y)

/-- A divisor that is the smaller one is at most half. -/
theorem two_mul_natAbs_le_of_dvd {r b : Int} (h : r ∣ b) (hlt : r.natAbs < b.natAbs) : 2 * r.natAbs ≤ b.natAbs := by
  obtain ⟨k, hk⟩ := Int.natAbs_dvd_natAbs.mpr h
  have hk2 : 2 ≤ k := by
    by_contra hcon
    interval_cases k <;> omega
  calc 2 * r.natAbs ≤ k * r.natAbs := Nat.mul_le_mul_right _ hk2
    _ = b.natAbs := by rw [hk, Nat.mul_comm]

/-- The bounds pass from the rest of a run to the run: the new `Y` is `X - q * Y`, and `|q| * |b| + |r| = |a|`. -/
theorem EgcdBounded.step {a b g X Y : Int} (hb : b ≠ 0) (h : EgcdBounded b (a.tmod b) (g, X, Y)) :
    EgcdBounded a b (g, Y, X - a.tdiv b * Y) := by
  have hsum := natAbs_tdiv_add_tmod a b
  have hlt := natAbs_tmod_lt a hb
  cases h with
  | zero hr => simpa using EgcdBounded.dvd hb (Int.dvd_of_tmod_eq_zero hr)
  | dvd hr hdvd =>
    have hhalf := two_mul_natAbs_le_of_dvd hdvd hlt
    refine .proper (Int.natAbs_pos.mpr hr) hhalf (by simpa using hhalf) ?_
    calc 2 * (0 - a.tdiv b * 1).natAbs * (a.tmod b).natAbs
        = 2 * (a.tmod b).natAbs * (a.tdiv b).natAbs := by rw [Int.zero_sub, Int.mul_one, Int.natAbs_neg]; ring
      _ ≤ b.natAbs * (a.tdiv b).natAbs := Nat.mul_le_mul_right _ hhalf
      _ ≤ a.natAbs := by omega
  | proper hg hgr hX hY =>
    refine .proper hg (by omega) hY ?_
    have htri : (X - a.tdiv b * Y).natAbs ≤ X.natAbs + (a.tdiv b).natAbs * Y.natAbs := by
      rw [← Int.natAbs_mul]
      exact Int.natAbs_sub_le _ _
    calc 2 * (X - a.tdiv b * Y).natAbs * g.natAbs
        ≤ 2 * (X.natAbs + (a.tdiv b).natAbs * Y.natAbs) * g.natAbs := by gcongr
      _ = 2 * X.natAbs * g.natAbs + 2 * Y.natAbs * g.natAbs * (a.tdiv b).natAbs := by ring
      _ ≤ (a.tmod b).natAbs + b.natAbs * (a.tdiv b).natAbs := by gcongr
      _ = a.natAbs := by omega

/-- The results of a run with fuel enough are bounded. -/
theorem egcdLoop_bounded {n : Nat} {a b : Int} (h : b.natAbs < n) : EgcdBounded a b (egcdLoop n a b 1 0 0 1) := by
  induction n generalizing a b with
  | zero => omega
  | succ n ih =>
    by_cases hb : b = 0
    · subst hb
      rw [egcdLoop_zero]
      exact .zero rfl
    · have hlt := natAbs_tmod_lt a hb
      have hrest := ih (a := b) (b := a.tmod b) (by omega)
      rcases hL : egcdLoop n b (a.tmod b) 1 0 0 1 with ⟨g, X, Y⟩
      rw [egcdLoop_unit_succ hb hL]
      exact (hL ▸ hrest).step hb

theorem extendedGcd_bounded (a b : Int) : EgcdBounded a b (extendedGcd a b) :=
  egcdLoop_bounded (Nat.lt_succ_self _)

/-- With nonnegative operands `g` is nonnegative (R186 c). -/
theorem egcdLoop_fst_nonneg {n : Nat} {a b : Int} (ha : 0 ≤ a) (hb : 0 ≤ b) (x₀ x y₀ y : Int) :
    0 ≤ (egcdLoop n a b x₀ x y₀ y).1 := by
  induction n generalizing a b x₀ x y₀ y with
  | zero => exact ha
  | succ n ih =>
    by_cases h0 : b = 0
    · subst h0
      rwa [egcdLoop_zero]
    · rw [egcdLoop_succ h0]
      exact ih hb (Int.tmod_nonneg b ha) ..

theorem extendedGcd_fst_nonneg {a b : Int} (ha : 0 ≤ a) (hb : 0 ≤ b) : 0 ≤ (extendedGcd a b).1 :=
  egcdLoop_fst_nonneg ha hb ..

/-! The ranges of R181 and R185 -/

/-- The range check of R185 on `g` is the range of R181 of the command's mode. -/
theorem fits_iff_operandRange {w : Nat} {sgn : Bool} {z : Int} :
    (if sgn then fitsS w z else fitsU w z) = true ↔ operandRange w sgn z := by
  cases sgn <;> simp [fitsS, fitsU, operandRange]

/-- The range check of R185 on a coefficient is the signed range of R181. -/
theorem fitsS_iff_operandRange {w : Nat} {z : Int} : fitsS w z = true ↔ operandRange w true z :=
  fits_iff_operandRange (sgn := true)

/-- An operand of either mode is below `2^W` in size. -/
theorem operandRange.natAbs_lt {w : Nat} {sgn : Bool} {a : Int} (h : operandRange (w + 1) sgn a) :
    a.natAbs < 2 * 2 ^ w := by
  have h2 : (2 : Int) ^ (w + 1) = 2 * 2 ^ w := by ring
  have hp : (0 : Int) < 2 ^ w := by positivity
  zify
  rw [abs_lt]
  cases sgn with
  | true => simp only [operandRange, if_true, Nat.add_sub_cancel] at h; omega
  | false => simp only [operandRange, Bool.false_eq_true, if_false] at h; omega

/-- A number of less than half the unsigned range in size is a signed number. -/
theorem operandRange_signed_of_natAbs_lt {w : Nat} {z : Int} (h : z.natAbs < 2 ^ w) : operandRange (w + 1) true z := by
  zify at h
  rw [abs_lt] at h
  simp only [operandRange, if_true, Nat.add_sub_cancel]
  omega

/-- Half of a size below `2^W` is a signed number. -/
theorem operandRange_signed_of_half {w : Nat} {sgn : Bool} {a z : Int} (h : operandRange (w + 1) sgn a)
    (hz : 2 * z.natAbs ≤ a.natAbs) : operandRange (w + 1) true z :=
  operandRange_signed_of_natAbs_lt (by have := h.natAbs_lt; omega)

/-- A signed number that is nonnegative is an unsigned number too. -/
theorem operandRange_of_signed {w : Nat} {sgn : Bool} {z : Int} (h : operandRange (w + 1) true z)
    (h0 : sgn = false → 0 ≤ z) : operandRange (w + 1) sgn z := by
  have h2 : (2 : Int) ^ (w + 1) = 2 * 2 ^ w := by ring
  have hp : (0 : Int) < 2 ^ w := by positivity
  cases sgn with
  | true => exact h
  | false =>
    simp only [operandRange, if_true, Nat.add_sub_cancel] at h
    simp only [operandRange, Bool.false_eq_true, if_false]
    exact ⟨h0 rfl, by omega⟩

/-- A coefficient bounded as in a proper run is at most half the operand. -/
theorem two_mul_le_of_mul_le {x g b : Nat} (hg : 0 < g) (h : 2 * x * g ≤ b) : 2 * x ≤ b :=
  (Nat.le_mul_of_pos_right _ hg).trans h

/-- Operands in range give results in range, in both modes and at every width from 2 bits on. -/
theorem egcdFits_extendedGcd {w : Nat} {sgn : Bool} {a b : Int} (hw : 2 ≤ w) (ha : operandRange w sgn a)
    (hb : operandRange w sgn b) :
    egcdFits w sgn (extendedGcd a b).1 (extendedGcd a b).2.1 (extendedGcd a b).2.2 := by
  obtain ⟨w, rfl⟩ : ∃ v, w = v + 1 := ⟨w - 1, by omega⟩
  have h2 : 2 ≤ 2 ^ w := Nat.le_self_pow (by omega) 2
  have hzero : operandRange (w + 1) true 0 := operandRange_signed_of_natAbs_lt (by simp)
  have hone : operandRange (w + 1) true 1 := operandRange_signed_of_natAbs_lt (by rw [Int.natAbs_one]; omega)
  have hnonneg : sgn = false → 0 ≤ (extendedGcd a b).1 := by
    rintro rfl
    exact extendedGcd_fst_nonneg ha.1 hb.1
  have hbound := extendedGcd_bounded a b
  generalize extendedGcd a b = res at hbound hnonneg ⊢
  cases hbound with
  | zero _ => exact ⟨ha, hone, hzero⟩
  | dvd _ _ => exact ⟨hb, hzero, hone⟩
  | proper hg hgb hX hY =>
    exact ⟨operandRange_of_signed (operandRange_signed_of_half hb hgb) hnonneg,
      operandRange_signed_of_half hb (two_mul_le_of_mul_le hg hX),
      operandRange_signed_of_half ha (two_mul_le_of_mul_le hg hY)⟩

/-- EGCD's completion on operands of R181 is without an error. -/
theorem finishEgcd_err (rd rd2 rd3 : Reg) {sgn : Bool} {a b : Int} {s : State} (hw : s.cfg.wf)
    (ha : operandRange s.cfg.w sgn a) (hb : operandRange s.cfg.w sgn b) :
    (finishEgcd rd rd2 rd3 sgn a b s).err = .noError := by
  have hw2 : 2 ≤ s.cfg.w := by have := hw.1; unfold Params.w; omega
  obtain ⟨hg, hX, hY⟩ := egcdFits_extendedGcd hw2 ha hb
  obtain ⟨-, -, -, h⟩ | ⟨hbad, -⟩ := finishEgcd_cases rd rd2 rd3 sgn a b s
  · rw [h, State.complete_err]
  · rw [fits_iff_operandRange.mpr hg, fitsS_iff_operandRange.mpr hX, fitsS_iff_operandRange.mpr hY] at hbad
    simp at hbad

/-- What the invariant says of an EGCD in flight: a legal instance, and operands in their range (R181). -/
theorem State.Inv.egcd_operands {s : State} {rd rd2 rd3 rs1 rs2 : Reg} {sgn : Bool} {a b : Int} (hinv : s.Inv)
    (hf : s.flight = some (.egcd rd rd2 rd3 rs1 rs2 sgn a b)) :
    s.cfg.wf ∧ operandRange s.cfg.w sgn a ∧ operandRange s.cfg.w sgn b := by
  obtain ⟨hwf, -, -, hflight⟩ := hinv
  simp only [State.flightOk, hf] at hflight
  obtain ⟨-, -, -, -, -, hops⟩ := hflight
  exact ⟨hwf, hops⟩

/-- Settles O35: the results of Euclid's loop are in range wherever the operands are, so the check of R185 never fails. -/
theorem egcdNeverRaisesRange : Obligations.EgcdNeverRaisesRange := by
  intro s t rd rd2 rd3 rs1 rs2 sgn a b hinv hf hex
  obtain ⟨hwf, ha, hb⟩ := hinv.egcd_operands hf
  obtain rfl := Host.Outcome.next.inj ((exec_own hf).symm.trans hex)
  exact finishEgcd_err rd rd2 rd3 hwf ha hb

end Sys2Proof.Machine

/-! What every step answers (R11, R48), which requests are served (R62), what a draw answers (R9), and the
invariant after reset (R241). -/

namespace Sys2Proof.Machine

/-! Commands and the port -/

/-- An accept step leaves the port's response as it is. -/
theorem accept_start_resp (s : State) (i : Instr) : (s.accept i (startOf i)).resp = s.resp := by
  obtain ⟨e, -, h⟩ | ⟨r, j, -, -, h⟩ | ⟨f, -, -, -, h⟩ := accept_start_cases s i <;> rw [h] <;> simp

/-- A CTRL write leaves the port's response as it is. -/
theorem State.writeCtrl_resp (s : State) (d : Word) : (s.writeCtrl d).resp = s.resp := by
  obtain ⟨-, h⟩ | ⟨-, -, h⟩ | ⟨-, -, h⟩ := s.writeCtrl_cases d <;> rw [h] <;> simp

/-- A write that is dropped while BUSY leaves the port's response as it is, if it does so while idle. -/
theorem State.idleWrite_resp {s : State} {write : State → State} (h : (write s).resp = s.resp) :
    (s.idleWrite write).resp = s.resp := by
  unfold State.idleWrite
  split
  · rfl
  · exact h

/-- A CMD write answers a next state, with the port's response as it was. -/
theorem issue_next (c : Word) (s : State) : ∃ t, issue c s = .next t ∧ t.resp = s.resp := by
  cases hf : s.flight with
  | some f => exact ⟨_, issue_busy c hf, rfl⟩
  | none =>
    obtain ⟨i, -, h⟩ | ⟨e, -, h⟩ := issue_idle c hf
    · exact ⟨_, h, accept_start_resp s i⟩
    · exact ⟨_, h, rfl⟩

/-- An admitted write answers a next state, with the port's response as it was. -/
theorem busWrite_next (tgt : Target) (d : Word) (s : State) : ∃ t, busWrite tgt d s = .next t ∧ t.resp = s.resp := by
  cases tgt with
  | id | param | candcnt => exact ⟨_, rfl, rfl⟩
  | ctrl => exact ⟨_, rfl, s.writeCtrl_resp d⟩
  | status => exact ⟨_, rfl, rfl⟩
  | cmd => exact issue_next d s
  | rounds | retry | drawlim | brWord => exact ⟨_, rfl, State.idleWrite_resp rfl⟩

/-- An admitted read gets data with `err = 0`. -/
theorem State.busRead_resp (s : State) (tgt : Target) : ∃ x, (s.busRead tgt).resp = some ⟨x, false⟩ := by
  cases tgt with
  | brWord r j =>
    simp only [State.busRead]
    split
    · exact ⟨_, rfl⟩
    · exact ⟨_, State.recordFault_resp _ _⟩
  | _ => exact ⟨_, rfl⟩

/-! Every turn answers a next state -/

theorem exec_answers (i : Instr) (s : State) : ∃ t, exec i s = .next t := by
  obtain ⟨-, h⟩ | ⟨f, -, -, h⟩ | ⟨f, -, -, h⟩ := exec_next i s <;> exact ⟨_, h⟩

theorem engineTurn_answers (s : State) : ∃ t, engineTurn s = .next t := by
  obtain ⟨-, f, -, h⟩ | ⟨-, h⟩ := engineTurn_cases s
  · exact h ▸ exec_answers f.instr s
  · exact ⟨_, h⟩

theorem serve_answers (a : Access) (s : State) : ∃ t, serve a s = .next t := by
  obtain ⟨-, h⟩ | ⟨off, -, -, h⟩ | ⟨off, tgt, -, -, -, h⟩ | ⟨off, tgt, -, -, -, h⟩ := serve_cases a s
  · exact ⟨_, h⟩
  · exact ⟨_, h⟩
  · obtain ⟨t, ht, -⟩ := busWrite_next tgt a.wdata (s.respondFree false)
    exact ⟨t, h.trans ht⟩
  · exact ⟨_, h⟩

/-- Settles O58: by whose turn it is. -/
theorem everyStepAnswersANextState : Obligations.EveryStepAnswersANextState := by
  intro s
  obtain hengine | ⟨a, rest, hhost⟩ | ⟨rest, hreset⟩ := turns_cases s
  · exact step_engine hengine ▸ engineTurn_answers _
  · exact step_host hhost ▸ serve_answers a _
  · exact ⟨_, step_hardReset hreset⟩

/-! Admission (R62) -/

/-- The control registers stand at the multiples of 4 up to `0x020` (R29). -/
theorem admitted_control {ww off : Nat} (h4 : off % 4 = 0) (hoff : off ≤ 0x020) : ∃ tgt, admitted ww off 4 = some tgt := by
  rw [admitted, if_pos ⟨rfl, h4⟩]
  obtain ⟨k, rfl⟩ : ∃ k, off = 4 * k := ⟨off / 4, by omega⟩
  have hk : k ≤ 8 := by omega
  interval_cases k <;> exact ⟨_, rfl⟩

/-- A request is admitted exactly when it is a word access to a listed offset. -/
theorem admitted_iff {ww off size : Nat} (hww : ww ≤ 256) :
    (∃ tgt, admitted ww off size = some tgt) ↔ size = 4 ∧ off % 4 = 0 ∧ listedOffset ww off := by
  constructor
  · rintro ⟨tgt, h⟩
    obtain ⟨hsize, h4, htgt⟩ := admitted_eq_some h
    refine ⟨hsize, h4, ?_⟩
    rcases htgt with h | h | h | h | h | h | h | h | h | ⟨r, j, hj, -, rfl⟩
    rotate_left 9
    · exact .inr ⟨r, j, hj, rfl⟩
    all_goals exact .inl ⟨h4, by omega⟩
  · rintro ⟨rfl, h4, ⟨-, hctl⟩ | ⟨r, j, hj, rfl⟩⟩
    · exact admitted_control h4 hctl
    · exact ⟨_, admitted_brWord r hj hww⟩

/-- A host turn with an access outside the window (R8, log 11). -/
theorem step_outside {s : State} {a : Access} {rest : List Turn} (h : s.turns = .host a :: rest)
    (hout : ¬ (s.cfg.base ≤ a.addr ∧ a.addr < s.cfg.base + 0x4000)) :
    step s = .next { s.withTurns rest with resp := none } := by
  rw [step_host h]
  simp [serve, offsetOf, hout]

/-- A host turn with an access of the window that is not admitted (R63). -/
theorem step_refused {s : State} {a : Access} {rest : List Turn} {off : Nat} (h : s.turns = .host a :: rest)
    (haddr : a.addr = s.cfg.base + off) (hoff : off < 0x4000) (hno : admitted s.cfg.ww off a.size = none) :
    step s = .next (((s.withTurns rest).respondFree true).recordFault (.hostBusError off)) := by
  rw [step_host h]
  simp [serve, haddr, offsetOf_add hoff, hno]

/-- An admitted access, read or write, gets `err = 0`. -/
theorem step_admitted_resp {s t : State} {a : Access} {rest : List Turn} {off : Nat} {tgt : Target}
    (h : s.turns = .host a :: rest) (haddr : a.addr = s.cfg.base + off) (hoff : off < 0x4000)
    (hadm : admitted s.cfg.ww off a.size = some tgt) (hstep : step s = .next t) :
    ∃ x, t.resp = some { rdata := x, err := false } := by
  simp only [step_host h, serve, State.withTurns_cfg, haddr, offsetOf_add hoff, hadm] at hstep
  split at hstep
  · obtain ⟨u, hu, hresp⟩ := busWrite_next tgt a.wdata ((s.withTurns rest).respondFree false)
    obtain rfl := Host.Outcome.next.inj (hu.symm.trans hstep)
    exact ⟨_, hresp⟩
  · obtain rfl := Host.Outcome.next.inj hstep
    exact State.busRead_resp _ tgt

/-- Settles O16: outside the window, refused, and admitted accesses in turn. -/
theorem onlyListedWordsAreServed : Obligations.OnlyListedWordsAreServed := by
  intro s t a rest hwf hturns hstep
  have hww : s.cfg.ww ≤ 256 := hwf.2.1
  refine ⟨fun hout => ?_, fun off hoff haddr => ⟨fun hno => ?_, fun hyes => ?_⟩⟩
  · obtain rfl := Host.Outcome.next.inj ((step_outside hturns hout).symm.trans hstep)
    simp [sameBlock, sameDraws]
  · have hnone : admitted s.cfg.ww off a.size = none := by
      rwa [← admitted_iff hww, ← Option.ne_none_iff_exists', not_not] at hno
    obtain rfl := Host.Outcome.next.inj ((step_refused hturns haddr hoff hnone).symm.trans hstep)
    simp [sameBlock, sameDraws]
  · obtain ⟨tgt, hadm⟩ := (admitted_iff hww).mpr hyes
    exact step_admitted_resp hturns haddr hoff hadm hstep

/-! Draws -/

/-- Settles O36: an answer at hand is the draw's answer, and every answer is brought into the range. -/
theorem drawsAreFreeInTheirRange : Obligations.DrawsAreFreeInTheirRange := by
  intro s lo hi hle
  refine ⟨?_, s.draw_state lo hi, fun v hlo hhi => ?_, ?_⟩
  · cases ha : (s.draw lo hi).1 with
    | none => exact .inl rfl
    | some v => exact .inr ⟨v, rfl, State.draw_mem hle ha⟩
  · rw [State.draw_of_entropy rfl ⟨hlo, hhi⟩]
  · rw [State.draw_of_fail rfl]

/-! Reset and the engine's turn -/

/-- After reset every big register has its `WW` words (R21, R241). -/
theorem length_reg_resetOf (p : Params) (r : Reg) : ((State.resetOf p).reg r).length = p.ww := by
  simp [State.reg, State.resetOf, Vector.get_eq_getElem]

theorem resetOf_inv {p : Params} (h : p.wf) : (State.resetOf p).Inv :=
  ⟨h, length_reg_resetOf p, fun _ => rfl, trivial⟩

/-- Settles O6: nothing is in flight after reset, and the registers have their words. -/
theorem resetMeetsInvariant : Obligations.ResetMeetsInvariant :=
  ⟨fun _ => resetOf_inv, resetOf_inv (by decide)⟩

/-- The engine's turn with a command in flight and no fault recorded (R48). -/
theorem engineTurn_of_flight {s : State} {f : InFlight} (h0 : s.fault = none) (hf : s.flight = some f) :
    engineTurn s = exec f.instr s := by
  simp only [engineTurn, h0, hf]

/-- The engine has no step with a fault recorded, and while idle (R48). -/
theorem engineTurn_of_no_step {s : State} (h : s.fault ≠ none ∨ s.flight = none) : engineTurn s = .next s := by
  obtain ⟨h0, f, hf, -⟩ | ⟨-, he⟩ := engineTurn_cases s
  · simp [h0, hf] at h
  · exact he

/-- Settles O9: an unnamed and a named engine turn are `engineTurn` of the state whose turn is taken. -/
theorem engineTurnRunsTheCommandInFlight : Obligations.EngineTurnRunsTheCommandInFlight := by
  intro s s' h
  obtain ⟨ts, rfl, hstep⟩ : ∃ ts, s' = s.withTurns ts ∧ step s = engineTurn s' := by
    obtain ⟨hnil, rfl⟩ | ⟨hcons, hs'⟩ := h
    · exact ⟨s'.turns, rfl, (step_engine (.inl hnil)).trans (by rw [hnil, List.tail_nil, ← hnil]; rfl)⟩
    · exact ⟨s'.turns, hs', (step_engine (.inr ⟨_, hcons⟩)).trans (by rw [hcons, List.tail_cons, ← hs'])⟩
  rw [hstep]
  exact ⟨fun f h0 hf => engineTurn_of_flight h0 hf, fun hno => engineTurn_of_no_step hno⟩

end Sys2Proof.Machine

/-! What an admitted write, an engine step and a whole step can do, each said once; the whole-machine rules read it
off (R22, R33, R38, R42, R79, R202). -/

namespace Sys2Proof.Machine

/-! The fields of an unchanged block -/

section
variable {s t : State} (h : sameBlock s t)
include h

theorem sameBlock.cfg_eq : t.cfg = s.cfg := h.1

theorem sameBlock.br_eq : t.br = s.br := h.2.1

theorem sameBlock.prime_eq : t.prime = s.prime := by
  obtain ⟨-, -, -, -, hprime, -⟩ := h
  exact hprime

theorem sameBlock.ovr_eq : t.ovr = s.ovr := by
  obtain ⟨-, -, -, -, -, hovr, -⟩ := h
  exact hovr

theorem sameBlock.limits_eq :
    t.cmdLast = s.cmdLast ∧ t.rounds = s.rounds ∧ t.retry = s.retry ∧ t.drawlim = s.drawlim := by
  obtain ⟨-, -, -, -, -, -, -, hcmd, hrounds, hretry, hdrawlim, -⟩ := h
  exact ⟨hcmd, hrounds, hretry, hdrawlim⟩

theorem sameBlock.candcnt_eq : t.candcnt = s.candcnt := by
  obtain ⟨-, -, -, -, -, -, -, -, -, -, -, hcandcnt, -⟩ := h
  exact hcandcnt

theorem sameBlock.flight_eq : t.flight = s.flight := by
  obtain ⟨-, -, -, -, -, -, -, -, -, -, -, -, hflight⟩ := h
  exact hflight

end

/-! Host writes -/

/-- What an admitted write of `d` at an offset does to the block (R65 to R67). -/
inductive HostWrites (s : State) (d : Word) : Nat → State → Prop where
  | ignored (off : Nat) (hoff : off = 0x000 ∨ off = 0x004 ∨ off = 0x020) : HostWrites s d off s
  | ctrl : HostWrites s d 0x008 (s.writeCtrl d)
  | status : HostWrites s d 0x00C (s.writeStatus d)
  | dropped (off : Nat) (hbusy : s.flight ≠ none) : HostWrites s d off s.dropWrite
  | accepted (i : Instr) (hidle : s.flight = none) (hdecode : decode d = .ok i) :
      HostWrites s d 0x010 (s.accept i (startOf i))
  | illegal (x : Reject) (hidle : s.flight = none) (hdecode : decode d = .error x) :
      HostWrites s d 0x010 (s.acceptIllegal d)
  | rounds (hidle : s.flight = none) : HostWrites s d 0x014 { s with rounds := d.setWidth 16 }
  | retry (hidle : s.flight = none) : HostWrites s d 0x018 { s with retry := d }
  | drawlim (hidle : s.flight = none) : HostWrites s d 0x01C { s with drawlim := d }
  | word (r : Reg) (j : Nat) (hidle : s.flight = none) (hj : j < s.cfg.ww) :
      HostWrites s d (brOffset r j) (s.writeWord r j d)

theorem State.busy_eq_true {s : State} : s.busy = true ↔ s.flight ≠ none := by
  simp [State.busy, Option.isSome_iff_ne_none]

theorem State.busy_eq_false {s : State} : s.busy = false ↔ s.flight = none := by
  simp [State.busy]

/-- While idle a write acts (R66). -/
theorem State.idleWrite_idle {s : State} (write : State → State) (h : s.flight = none) : s.idleWrite write = write s := by
  simp [State.idleWrite, State.busy_eq_false.mpr h]

/-- While BUSY a write is dropped (R66). -/
theorem State.idleWrite_busy {s : State} (write : State → State) (h : s.flight ≠ none) :
    s.idleWrite write = s.dropWrite := by
  simp [State.idleWrite, State.busy_eq_true.mpr h]

theorem HostWrites.of_issue {s t : State} {d : Word} (h : issue d s = .next t) : HostWrites s d 0x010 t := by
  cases hf : s.flight with
  | some f =>
    obtain rfl := Host.Outcome.next.inj ((issue_busy d hf).symm.trans h)
    exact .dropped _ (by simp [hf])
  | none =>
    obtain ⟨i, hdecode, hi⟩ | ⟨x, hdecode, hi⟩ := issue_idle d hf
    · obtain rfl := Host.Outcome.next.inj (hi.symm.trans h)
      exact .accepted i hf hdecode
    · obtain rfl := Host.Outcome.next.inj (hi.symm.trans h)
      exact .illegal x hf hdecode

theorem HostWrites.of_idleWrite {s : State} {d : Word} {off : Nat} {write : State → State}
    (h : s.flight = none → HostWrites s d off (write s)) : HostWrites s d off (s.idleWrite write) := by
  by_cases hf : s.flight = none
  · exact State.idleWrite_idle write hf ▸ h hf
  · exact State.idleWrite_busy write hf ▸ .dropped off hf

theorem HostWrites.of_busWrite {s t : State} {d : Word} {ww off size : Nat} {tgt : Target} (hww : ww = s.cfg.ww)
    (hadm : admitted ww off size = some tgt) (h : busWrite tgt d s = .next t) : HostWrites s d off t := by
  obtain ⟨-, -, htgt⟩ := admitted_eq_some hadm
  rcases htgt with ⟨rfl, rfl⟩ | ⟨rfl, rfl⟩ | ⟨rfl, rfl⟩ | ⟨rfl, rfl⟩ | ⟨rfl, rfl⟩ | ⟨rfl, rfl⟩ | ⟨rfl, rfl⟩ | ⟨rfl, rfl⟩ |
    ⟨rfl, rfl⟩ | ⟨r, j, hj, rfl, rfl⟩
  · obtain rfl := Host.Outcome.next.inj h
    exact .ignored _ (by simp)
  · obtain rfl := Host.Outcome.next.inj h
    exact .ignored _ (by simp)
  · obtain rfl := Host.Outcome.next.inj h
    exact .ctrl
  · obtain rfl := Host.Outcome.next.inj h
    exact .status
  · exact .of_issue h
  · obtain rfl := Host.Outcome.next.inj h
    exact .of_idleWrite .rounds
  · obtain rfl := Host.Outcome.next.inj h
    exact .of_idleWrite .retry
  · obtain rfl := Host.Outcome.next.inj h
    exact .of_idleWrite .drawlim
  · obtain rfl := Host.Outcome.next.inj h
    exact .ignored _ (by simp)
  · obtain rfl := Host.Outcome.next.inj h
    exact .of_idleWrite fun hf => .word r j hf (hww ▸ hj)

/-! Reads -/

/-- A read leaves the block as it is (R72), and at most records a fault. -/
theorem State.sameBlock_busRead (s : State) (tgt : Target) :
    sameBlock s (s.busRead tgt) ∧
      ((s.busRead tgt).fault = s.fault ∨ ∃ x, (s.busRead tgt).fault = some (s.fault.getD x)) := by
  cases tgt with
  | brWord r j =>
    simp only [State.busRead]
    split
    · simp [sameBlock]
    · exact ⟨by simp [sameBlock], .inr ⟨_, State.recordFault_fault _ _⟩⟩
  | _ => simp [State.busRead, sameBlock]

/-! Steps -/

/-- What a step does, by whose turn it is. -/
inductive StepsTo (s : State) : State → Prop where
  | engine (f : InFlight) (hturn : engineNext s) (hfault : s.fault = none) (hflight : s.flight = some f) :
      StepsTo s (advanceOf f (s.withTurns s.turns.tail))
  | noStep (hturn : engineNext s) (hno : s.fault ≠ none ∨ s.flight = none) : StepsTo s (s.withTurns s.turns.tail)
  | hardReset {rest : List Turn} (hturn : s.turns = .hardReset :: rest) : StepsTo s (s.withTurns rest).hardReset
  | served {a : Access} {rest : List Turn} {t : State} (hturn : s.turns = .host a :: rest) (hblock : sameBlock s t)
      (hfault : t.fault = s.fault ∨ ∃ x, t.fault = some (s.fault.getD x)) : StepsTo s t
  | written {off : Nat} {d : Word} {rest : List Turn} {t : State} (hturn : s.turns = hostWrite s off d :: rest)
      (hwrite : HostWrites ((s.withTurns rest).respondFree false) d off t) : StepsTo s t

theorem StepsTo.of_engineTurn {s t : State} (hturn : engineNext s) (h : step s = .next t) : StepsTo s t := by
  rw [step_engine hturn] at h
  obtain ⟨hfault, f, hf, he⟩ | ⟨hno, he⟩ := engineTurn_cases (s.withTurns s.turns.tail)
  · obtain rfl := Host.Outcome.next.inj ((exec_own hf).symm.trans (he.symm.trans h))
    exact .engine f hturn hfault hf
  · obtain rfl := Host.Outcome.next.inj (he.symm.trans h)
    exact .noStep hturn hno

theorem StepsTo.of_hostTurn {s t : State} {a : Access} {rest : List Turn} (hturn : s.turns = .host a :: rest)
    (h : step s = .next t) : StepsTo s t := by
  obtain ⟨-, he⟩ | ⟨off, -, -, -, he⟩ | ⟨off, tgt, haddr, -, hadm, hw, he⟩ | ⟨off, tgt, -, -, -, -, he⟩ :=
    step_host_cases hturn
  · obtain rfl := Host.Outcome.next.inj (he.symm.trans h)
    exact .served hturn (by simp [sameBlock]) (.inl rfl)
  · obtain rfl := Host.Outcome.next.inj (he.symm.trans h)
    exact .served hturn (by simp [sameBlock]) (.inr ⟨_, State.recordFault_fault _ _⟩)
  · have ha : Turn.host a = hostWrite s off a.wdata := by
      obtain ⟨addr, write, size, wdata⟩ := a
      obtain ⟨rfl, -, -⟩ := admitted_eq_some hadm
      simp only at haddr hw
      rw [haddr, hw, hostWrite]
    rw [ha] at hturn
    exact .written hturn (.of_busWrite rfl hadm (he.symm.trans h))
  · obtain rfl := Host.Outcome.next.inj (he.symm.trans h)
    obtain ⟨hblock, hfault⟩ := (s.withTurns rest).sameBlock_busRead tgt
    exact .served hturn hblock hfault

theorem stepsTo_of_step {s t : State} (h : step s = .next t) : StepsTo s t := by
  obtain hengine | ⟨a, rest, hhost⟩ | ⟨rest, hreset⟩ := turns_cases s
  · exact .of_engineTurn hengine h
  · exact .of_hostTurn hhost h
  · obtain rfl := Host.Outcome.next.inj ((step_hardReset hreset).symm.trans h)
    exact .hardReset hreset

/-! Accept steps -/

/-- What every accept step keeps to (R25, R47, R202): no register, no control field, no draw, no OVR and no CANDCNT
changes, PRIME is cleared, and beside a fault that stands none is recorded. -/
structure AcceptStep (s t : State) : Prop where
  control : sameControl s t
  br : t.br = s.br
  draws : sameDraws s t
  ovr : t.ovr = s.ovr
  candcnt : t.candcnt = s.candcnt
  prime : t.prime = false
  fault : t.fault = s.fault ∨ ∃ x, t.fault = some (s.fault.getD x)

theorem accept_acceptStep (s : State) (i : Instr) : AcceptStep s (s.accept i (startOf i)) := by
  obtain ⟨e, -, h⟩ | ⟨r, j, -, -, h⟩ | ⟨f, -, -, -, h⟩ := accept_start_cases s i <;> rw [h]
  all_goals constructor <;> simp [sameControl, sameDraws]

/-! Engine steps -/

/-- A command that draws (R82): PTEST and PGEN, the two that can set PRIME (R33). -/
def primality (i : Instr) : Prop := (∃ rs1, i = .ptest rs1) ∨ ∃ rd bits, i = .pgen rd bits

/-- What every engine step of the command `f` in flight keeps to (R25, R45, R46, R97): the command goes on with registers
and status as they were, or it completes; with an error it writes no register, and then only its destinations. -/
structure EngineStep (f : InFlight) (s t : State) : Prop where
  control : sameControl s t
  readBack : t.cmdLast = s.cmdLast
  fault : t.fault = s.fault
  ovr : t.ovr = s.ovr
  candcnt : t.candcnt ≠ s.candcnt → t.flight = none ∧ ∃ rd bits, f.instr = .pgen rd bits
  draws : sameDraws s t ∨ primality f.instr ∧ t.drawIdx = s.drawIdx + 1 ∧ t.entropy = s.entropy.tail
  regs : sameRegsBut (destinationsOf f.instr) s t
  flight : (∃ f', f'.instr = f.instr ∧ t.flight = some f' ∧ t.br = s.br ∧ t.done = s.done ∧ t.err = s.err ∧
      t.prime = s.prime) ∨
    (t.flight = none ∧ t.done = true ∧ (t.err = .noError ∨ t.br = s.br) ∧
      (t.prime = true → t.err = .noError ∧ primality f.instr))

theorem sameRegsBut_of_br {s t : State} (h : t.br = s.br) (rs : List Reg) : sameRegsBut rs s t :=
  fun r _ => State.reg_congr h r

/-- A write of a register of the list. -/
theorem sameRegsBut_writeBig {rs : List Reg} {s u : State} {r : Reg} (hr : r ∈ rs) (v : List Word)
    (h : sameRegsBut rs s u) : sameRegsBut rs s (u.writeBig r v) := by
  intro r' hr'
  rw [State.reg_writeBig, if_neg (by rintro rfl; exact hr' hr)]
  exact h r' hr'

/-- A step that keeps the command in flight. -/
theorem EngineStep.of_launch {f f' : InFlight} (s : State) (hf' : f'.instr = f.instr) : EngineStep f s (s.launch f') where
  control := by simp [sameControl]
  readBack := rfl
  fault := rfl
  ovr := rfl
  candcnt h := absurd rfl h
  draws := .inl ⟨rfl, rfl⟩
  regs := sameRegsBut_of_br rfl _
  flight := .inl ⟨f', hf', rfl, rfl, rfl, rfl, rfl⟩

/-- A step that completes, after `u` was made of `s` by writing results. -/
theorem EngineStep.of_complete {f : InFlight} {s u : State} {e : ErrCode} {p : Bool}
    (hu : u = { s with br := u.br, candcnt := u.candcnt })
    (hcand : u.candcnt ≠ s.candcnt → ∃ rd bits, f.instr = .pgen rd bits)
    (hregs : sameRegsBut (destinationsOf f.instr) s u) (herr : e = .noError ∨ u.br = s.br)
    (hp : p = true → e = .noError ∧ primality f.instr) : EngineStep f s (u.complete e p) where
  control := by rw [hu]; simp [sameControl]
  readBack := by rw [hu]; rfl
  fault := by rw [hu]; rfl
  ovr := by rw [hu]; rfl
  candcnt h := ⟨rfl, hcand h⟩
  draws := .inl (by rw [hu]; exact ⟨rfl, rfl⟩)
  regs := hregs
  flight := .inr ⟨rfl, rfl, herr, hp⟩

/-- A step that completes without results. -/
theorem EngineStep.of_complete_only {f : InFlight} (s : State) {e : ErrCode} {p : Bool}
    (hp : p = true → e = .noError ∧ primality f.instr) : EngineStep f s (s.complete e p) :=
  .of_complete rfl (fun h => absurd rfl h) (sameRegsBut_of_br rfl _) (.inr rfl) hp

/-- A PGEN that completes without a prime. -/
theorem EngineStep.of_completePgen {f : InFlight} (s : State) {n : Nat} {e : ErrCode} {rd : Reg} {bits : BitVec 16}
    (hf : f.instr = .pgen rd bits) : EngineStep f s (s.completePgen n e false) :=
  .of_complete (u := { s with candcnt := candWord n }) rfl (fun _ => ⟨rd, bits, hf⟩) (sameRegsBut_of_br rfl _) (.inr rfl)
    nofun

/-- One register written, and the completion without an error. -/
theorem EngineStep.of_result {f : InFlight} (s : State) {rd : Reg} (v : List Word)
    (hrd : rd ∈ destinationsOf f.instr) : EngineStep f s ((s.writeBig rd v).complete .noError false) :=
  .of_complete rfl (fun h => absurd rfl h) (sameRegsBut_writeBig hrd v (sameRegsBut_of_br rfl _)) (.inl rfl) nofun

/-- The draw of a step that made one. -/
theorem EngineStep.after_draw {f : InFlight} {s t : State} (hprim : primality f.instr) (h : EngineStep f s.countDraw t)
    (hdraws : sameDraws s.countDraw t) : EngineStep f s t :=
  { h with draws := .inr ⟨hprim, hdraws.2, hdraws.1⟩ }

/-- What PTEST's engine step keeps to. -/
theorem advancePtest_engineStep (rs1 : Reg) (p : TestProgress) (s : State) :
    EngineStep (.ptest rs1 p) s (advancePtest rs1 p s) := by
  have hprim : primality (InFlight.instr (.ptest rs1 p)) := .inl ⟨rs1, rfl⟩
  unfold advancePtest
  obtain ⟨-, h⟩ | ⟨-, -, h⟩ | ⟨-, a, -, h⟩ := testStep_cases p s <;> rw [h]
  · exact .of_complete_only s nofun
  · exact .after_draw hprim (.of_complete_only _ nofun) ⟨rfl, rfl⟩
  · cases judgeBase s.rounds.toNat p a with
    | exhausted | entropyFail | failed => exact .after_draw hprim (.of_complete_only _ nofun) ⟨rfl, rfl⟩
    | passed => exact .after_draw hprim (.of_complete_only _ fun _ => ⟨rfl, hprim⟩) ⟨rfl, rfl⟩
    | more p' => exact .after_draw hprim (.of_launch _ rfl) ⟨rfl, rfl⟩

/-- What PGEN's engine step for a candidate keeps to. -/
theorem advanceCandidate_engineStep (rd : Reg) (bits : BitVec 16) (cand : Nat) (s : State) :
    EngineStep (.pgen rd bits cand .needCandidate) s (advanceCandidate rd bits cand s) := by
  have hprim : primality (InFlight.instr (.pgen rd bits cand .needCandidate)) := .inr ⟨rd, bits, rfl⟩
  obtain ⟨-, h⟩ | ⟨-, -, h⟩ | ⟨-, r, -, ⟨-, h⟩ | ⟨-, h⟩⟩ := advanceCandidate_cases rd bits cand s <;> rw [h]
  · exact .of_completePgen s rfl
  · exact .after_draw hprim (.of_completePgen _ rfl) ⟨rfl, rfl⟩
  · exact .after_draw hprim (.of_completePgen _ rfl) ⟨rfl, rfl⟩
  · exact .after_draw hprim (.of_launch _ rfl) ⟨rfl, rfl⟩

/-- What PGEN's engine step in the testing phase keeps to. -/
theorem advancePgen_engineStep (rd : Reg) (bits : BitVec 16) (cand : Nat) (p : TestProgress) (s : State) :
    EngineStep (.pgen rd bits cand (.testing p)) s (advancePgen rd bits cand p s) := by
  have hprim : primality (InFlight.instr (.pgen rd bits cand (.testing p))) := .inr ⟨rd, bits, rfl⟩
  unfold advancePgen
  obtain ⟨-, h⟩ | ⟨-, -, h⟩ | ⟨-, a, -, h⟩ := testStep_cases p s <;> rw [h]
  · exact .of_completePgen s rfl
  · exact .after_draw hprim (.of_completePgen _ rfl) ⟨rfl, rfl⟩
  · cases judgeBase s.rounds.toNat p a with
    | exhausted | entropyFail => exact .after_draw hprim (.of_completePgen _ rfl) ⟨rfl, rfl⟩
    | passed =>
      refine .after_draw hprim (.of_complete (u := { s.countDraw.writeBig rd _ with candcnt := candWord cand }) rfl
        (fun _ => ⟨rd, bits, rfl⟩) ?_ (.inl rfl) fun _ => ⟨rfl, hprim⟩) ⟨rfl, rfl⟩
      exact sameRegsBut_writeBig (by simp [InFlight.instr, destinationsOf]) _ (sameRegsBut_of_br rfl _)
    | failed | more => exact .after_draw hprim (.of_launch _ rfl) ⟨rfl, rfl⟩

/-- What EGCD's completion keeps to. -/
theorem finishEgcd_engineStep (rd rd2 rd3 rs1 rs2 : Reg) (sgn : Bool) (a b : Int) (s : State) :
    EngineStep (.egcd rd rd2 rd3 rs1 rs2 sgn a b) s (finishEgcd rd rd2 rd3 sgn a b s) := by
  obtain ⟨-, -, -, h⟩ | ⟨-, h⟩ := finishEgcd_cases rd rd2 rd3 sgn a b s <;> rw [h]
  · refine .of_complete rfl (fun h => absurd rfl h) ?_ (.inl rfl) nofun
    iterate 3 refine sameRegsBut_writeBig (by simp [InFlight.instr, destinationsOf]) _ ?_
    exact sameRegsBut_of_br rfl _
  · exact .of_complete_only s nofun

theorem advanceOf_engineStep (f : InFlight) (s : State) : EngineStep f s (advanceOf f s) := by
  cases f with
  | modexp | modmul => exact .of_result s _ (by simp [InFlight.instr, destinationsOf])
  | egcd => exact finishEgcd_engineStep ..
  | ptest => exact advancePtest_engineStep ..
  | pgen rd bits cand phase =>
    cases phase with
    | needCandidate => exact advanceCandidate_engineStep ..
    | testing => exact advancePgen_engineStep ..

end Sys2Proof.Machine

namespace Sys2Proof.Machine

/-! Parameters and the fault record -/

@[simp] theorem State.writeCtrl_cfg (s : State) (d : Word) : (s.writeCtrl d).cfg = s.cfg := by
  obtain ⟨-, h⟩ | ⟨-, -, h⟩ | ⟨-, -, h⟩ := s.writeCtrl_cases d <;> simp [h]

@[simp] theorem State.writeCtrl_br (s : State) (d : Word) : (s.writeCtrl d).br = s.br := by
  obtain ⟨-, h⟩ | ⟨-, -, h⟩ | ⟨-, -, h⟩ := s.writeCtrl_cases d <;> simp [h]

@[simp] theorem State.writeCtrl_fault (s : State) (d : Word) : (s.writeCtrl d).fault = s.fault := by
  obtain ⟨-, h⟩ | ⟨-, -, h⟩ | ⟨-, -, h⟩ := s.writeCtrl_cases d <;> simp [h]

theorem HostWrites.cfg_eq {s t : State} {d : Word} {off : Nat} (h : HostWrites s d off t) : t.cfg = s.cfg := by
  cases h with
  | ctrl => exact s.writeCtrl_cfg d
  | accepted i => exact (accept_acceptStep s i).control.1
  | _ => rfl

theorem HostWrites.fault_eq {s t : State} {d : Word} {off : Nat} (h : HostWrites s d off t) :
    t.fault = s.fault ∨ ∃ x, t.fault = some (s.fault.getD x) := by
  cases h with
  | ctrl => exact .inl (s.writeCtrl_fault d)
  | accepted i => exact (accept_acceptStep s i).fault
  | _ => exact .inl rfl

theorem step_cfg {s t : State} (h : step s = .next t) : t.cfg = s.cfg := by
  cases stepsTo_of_step h with
  | engine f => exact (advanceOf_engineStep f _).control.1
  | noStep | hardReset => rfl
  | served _ hblock => exact hblock.cfg_eq
  | written _ hwrite => exact hwrite.cfg_eq

/-- Settles O51: no turn changes the parameters. -/
theorem instanceIsConstant : Obligations.InstanceIsConstant := fun _ _ => step_cfg

/-- A fault that stands is kept by whatever records at most one beside it (R202). -/
theorem fault_stays {o o' : Option FaultReason} {f : FaultReason} (h : o = some f)
    (h' : o' = o ∨ ∃ x, o' = some (o.getD x)) : o' = some f := by
  obtain rfl | ⟨x, rfl⟩ := h' <;> simp [h]

/-- Settles O50: no access, no reset and no engine turn clears the record, and with a record the engine has no step. -/
theorem modelFaultsAreSticky : Obligations.ModelFaultsAreSticky := by
  intro s f hf
  refine ⟨fun t hstep => ?_, fun hturn => ?_⟩
  · cases stepsTo_of_step hstep with
    | engine _ _ hnone => simp [hf] at hnone
    | noStep | hardReset => exact hf
    | served _ _ hfault => exact fault_stays hf hfault
    | written _ hwrite => exact fault_stays hf hwrite.fault_eq
  · rw [step_engine hturn]
    exact engineTurn_of_no_step (.inl (by simp [hf]))

/-! The big registers -/

/-- The one admitted write that changes a register is that of one of its words while idle (R22, R65). -/
theorem HostWrites.of_reg_ne {s t : State} {d : Word} {off : Nat} {r : Reg} (h : HostWrites s d off t)
    (hne : t.reg r ≠ s.reg r) : s.flight = none ∧ ∃ j < s.cfg.ww, off = brOffset r j := by
  cases h with
  | word r' j hidle hj =>
    by_cases hr : r = r'
    · exact ⟨hidle, j, hj, by rw [hr]⟩
    · rw [State.reg_writeWord, if_neg hr] at hne
      exact absurd rfl hne
  | ctrl => exact absurd (State.reg_congr (s.writeCtrl_br d) r) hne
  | accepted i => exact absurd (State.reg_congr (accept_acceptStep s i).br r) hne
  | _ => exact absurd rfl hne

/-- The engine step that changes a register names it as a destination and is a completion without an error (R25, R45). -/
theorem EngineStep.of_reg_ne {f : InFlight} {s t : State} {r : Reg} (h : EngineStep f s t) (hne : t.reg r ≠ s.reg r) :
    r ∈ destinationsOf f.instr ∧ t.flight = none ∧ t.done = true ∧ t.err = .noError := by
  refine ⟨not_not.mp fun hr => hne (h.regs r hr), ?_⟩
  obtain ⟨-, -, -, hbr, -⟩ | ⟨hfl, hdone, herr | hbr, -⟩ := h.flight
  · exact absurd (State.reg_congr hbr r) hne
  · exact ⟨hfl, hdone, herr⟩
  · exact absurd (State.reg_congr hbr r) hne

/-- Settles O49: the engine step and the write that change a register are the two of the statement. -/
theorem whoWritesABigRegister : Obligations.WhoWritesABigRegister := by
  intro s t r hstep hne
  cases stepsTo_of_step hstep with
  | engine f hturn _ hflight =>
    obtain ⟨hmem, hidle, hdone, herr⟩ := (advanceOf_engineStep f _).of_reg_ne hne
    exact .inr (.inl ⟨f, hturn, hflight, hmem, hidle, hdone, herr⟩)
  | noStep => exact absurd rfl hne
  | hardReset hturn => exact .inr (.inr ⟨_, hturn⟩)
  | served _ hblock => exact absurd (State.reg_congr hblock.br_eq r) hne
  | written hturn hwrite =>
    obtain ⟨hidle, j, hj, rfl⟩ := hwrite.of_reg_ne hne
    exact .inl ⟨_, _, j, hturn, rfl, hidle, hj, rfl⟩

/-! CANDCNT -/

/-- A CTRL write changes CANDCNT by a soft reset, or by the abort of a PGEN (R136, R213). -/
theorem State.writeCtrl_candcnt_ne {s : State} {d : Word} (hne : (s.writeCtrl d).candcnt ≠ s.candcnt) :
    d.getLsbD 2 = true ∨
      ∃ rd bits cand ph, s.flight = some (.pgen rd bits cand ph) ∧ (s.writeCtrl d).flight = none := by
  obtain ⟨hd, -⟩ | ⟨-, -, h⟩ | ⟨-, -, h⟩ := s.writeCtrl_cases d
  · exact .inl hd
  · rw [h] at hne ⊢
    obtain ⟨-, ha⟩ | ⟨rd, bits, cand, ph, hf, -⟩ | ⟨-, ha⟩ := (s.setIe (d.getLsbD 0)).abort_cases
    · exact absurd (by rw [ha]; rfl) hne
    · exact .inr ⟨rd, bits, cand, ph, hf, State.abort_flight _⟩
    · exact absurd (by rw [ha]; rfl) hne
  · exact absurd (by rw [h]; rfl) hne

/-- Settles O53: by the turn, the engine's own writes of CANDCNT being a PGEN's. -/
theorem whoWritesCandcnt : Obligations.WhoWritesCandcnt := by
  intro s t hstep hne
  cases stepsTo_of_step hstep with
  | engine f _ _ hflight =>
    obtain ⟨hidle, rd, bits, hf⟩ := (advanceOf_engineStep f _).candcnt hne
    cases f with
    | pgen rd bits cand ph => exact .inl ⟨rd, bits, cand, ph, hflight, hidle⟩
    | modexp | modmul | egcd | ptest => cases hf
  | noStep => exact absurd rfl hne
  | hardReset hturn => exact .inr (.inr ⟨_, hturn⟩)
  | served _ hblock => exact absurd hblock.candcnt_eq hne
  | written hturn hwrite =>
    cases hwrite with
    | ctrl =>
      obtain hd | hpgen := State.writeCtrl_candcnt_ne hne
      · exact .inr (.inl ⟨_, _, hturn, hd⟩)
      · exact .inl hpgen
    | accepted i => exact absurd (accept_acceptStep _ i).candcnt hne
    | _ => exact absurd rfl hne

/-! OVR -/

/-- A CTRL write never sets OVR, and clears it by a soft reset only (R32, R213). -/
theorem State.writeCtrl_ovr (s : State) (d : Word) :
    (s.writeCtrl d).ovr = s.ovr ∨ d.getLsbD 2 = true ∧ (s.writeCtrl d).ovr = false := by
  obtain ⟨hd, h⟩ | ⟨-, -, h⟩ | ⟨-, -, h⟩ := s.writeCtrl_cases d <;> rw [h]
  · exact .inr ⟨hd, rfl⟩
  · exact .inl (by simp)
  · exact .inl rfl

/-- What an admitted write does to OVR (R33, R66). -/
theorem HostWrites.ovr_eq {s t : State} {d : Word} {off : Nat} (h : HostWrites s d off t) :
    t.ovr = s.ovr ∨ s.flight ≠ none ∧ t.ovr = true ∨
      t.ovr = false ∧ (off = 0x00C ∧ d.getLsbD 3 = true ∨ off = 0x008 ∧ d.getLsbD 2 = true) := by
  cases h with
  | ctrl =>
    obtain hsame | ⟨hd, hclear⟩ := s.writeCtrl_ovr d
    · exact .inl hsame
    · exact .inr (.inr ⟨hclear, .inr ⟨rfl, hd⟩⟩)
  | status =>
    cases hd : d.getLsbD 3 with
    | false => exact .inl (by rw [State.writeStatus_ovr, hd, Bool.not_false, Bool.and_true])
    | true => exact .inr (.inr ⟨by rw [State.writeStatus_ovr, hd, Bool.not_true, Bool.and_false], .inl ⟨rfl, rfl⟩⟩)
  | dropped _ hbusy => exact .inr (.inl ⟨hbusy, rfl⟩)
  | accepted i => exact .inl (accept_acceptStep s i).ovr
  | _ => exact .inl rfl

/-- What a step does to OVR, by whose turn it is. -/
theorem step_ovr {s t : State} (h : step s = .next t) :
    t.ovr = s.ovr ∨
    (t.ovr = true ∧ s.flight ≠ none ∧ ∃ off d rest, s.turns = hostWrite s off d :: rest) ∨
    (t.ovr = false ∧
      ((∃ d rest, s.turns = hostWrite s 0x00C d :: rest ∧ d.getLsbD 3 = true) ∨
      (∃ d rest, s.turns = hostWrite s 0x008 d :: rest ∧ d.getLsbD 2 = true) ∨ ∃ rest, s.turns = .hardReset :: rest)) := by
  cases stepsTo_of_step h with
  | engine f => exact .inl (advanceOf_engineStep f _).ovr
  | noStep => exact .inl rfl
  | hardReset hturn => exact .inr (.inr ⟨rfl, .inr (.inr ⟨_, hturn⟩)⟩)
  | served _ hblock => exact .inl hblock.ovr_eq
  | written hturn hwrite =>
    obtain hsame | ⟨hbusy, hset⟩ | ⟨hclear, ⟨rfl, hd⟩ | ⟨rfl, hd⟩⟩ := hwrite.ovr_eq
    · exact .inl hsame
    · exact .inr (.inl ⟨hset, hbusy, _, _, _, hturn⟩)
    · exact .inr (.inr ⟨hclear, .inl ⟨_, _, hturn, hd⟩⟩)
    · exact .inr (.inr ⟨hclear, .inr (.inl ⟨_, _, hturn, hd⟩)⟩)

/-- Settles O54: each change of OVR names its turn. -/
theorem whoChangesOvr : Obligations.WhoChangesOvr := by
  intro s t hstep
  obtain hsame | ⟨hset, hbusy, off, d, rest, hturn⟩ | ⟨hclear, hwho⟩ := step_ovr hstep
  · exact ⟨fun hfalse htrue => by simp [hsame, hfalse] at htrue, fun htrue hfalse => by simp [hsame, htrue] at hfalse⟩
  · exact ⟨fun _ _ => ⟨hbusy, _, rest, hturn, rfl⟩, fun _ hfalse => by simp [hset] at hfalse⟩
  · exact ⟨fun _ htrue => by simp [hclear] at htrue, fun _ _ => hwho⟩

/-! PRIME -/

/-- No admitted write sets PRIME. -/
theorem HostWrites.prime_of_prime {s t : State} {d : Word} {off : Nat} (h : HostWrites s d off t)
    (hp : t.prime = true) : s.prime = true := by
  cases h with
  | ctrl =>
    obtain ⟨-, h⟩ | ⟨-, -, h⟩ | ⟨-, -, h⟩ := s.writeCtrl_cases d <;> rw [h] at hp
    · cases hp
    · obtain ⟨-, ha⟩ | ⟨rd, bits, cand, ph, -, ha⟩ | ⟨-, ha⟩ := (s.setIe (d.getLsbD 0)).abort_cases <;> rw [ha] at hp
      · exact hp
      · cases hp
      · cases hp
    · exact hp
  | accepted i => rw [(accept_acceptStep s i).prime] at hp; cases hp
  | illegal => cases hp
  | _ => exact hp

/-- Settles O55: no accept step, host write or reset sets PRIME. -/
theorem whoSetsPrime : Obligations.WhoSetsPrime := by
  intro s t hstep hfalse htrue
  have hne : t.prime ≠ s.prime := by simp [hfalse, htrue]
  cases stepsTo_of_step hstep with
  | engine f hturn _ hflight =>
    obtain ⟨-, -, -, -, -, -, hprime⟩ | ⟨hidle, hdone, -, hprime⟩ := (advanceOf_engineStep f _).flight
    · exact absurd hprime hne
    · obtain ⟨herr, hprim⟩ := hprime htrue
      exact ⟨hturn, ⟨hidle, hdone, herr, htrue⟩, f, hflight, hprim⟩
  | noStep => exact absurd rfl hne
  | hardReset => cases htrue
  | served _ hblock => exact absurd hblock.prime_eq hne
  | written _ hwrite => exact absurd (htrue.trans (hwrite.prime_of_prime htrue).symm) hne

/-! Commands in flight and the host -/

theorem engineNext.not_host {s : State} {a : Access} {rest : List Turn} (h : engineNext s) :
    s.turns ≠ .host a :: rest := by
  obtain h | ⟨rest', h⟩ := h <;> simp [h]

/-- A command in flight meets no admitted write but an abort or a soft reset. -/
theorem HostWrites.flight_eq {s t : State} {f : InFlight} {d : Word} {off : Nat} (h : HostWrites s d off t)
    (hf : s.flight = some f) :
    (t.flight = some f ∧ t.rounds = s.rounds ∧ t.retry = s.retry ∧ t.drawlim = s.drawlim ∧ t.cmdLast = s.cmdLast) ∨
    (t.flight = none ∧ off = 0x008 ∧ (d.getLsbD 1 = true ∨ d.getLsbD 2 = true)) := by
  cases h with
  | ctrl =>
    obtain ⟨hd, h⟩ | ⟨-, hd, h⟩ | ⟨-, -, h⟩ := s.writeCtrl_cases d <;> rw [h]
    · exact .inr ⟨rfl, rfl, .inr hd⟩
    · exact .inr ⟨State.abort_flight _, rfl, .inl hd⟩
    · exact .inl ⟨hf, rfl, rfl, rfl, rfl⟩
  | ignored | status | dropped => exact .inl ⟨hf, rfl, rfl, rfl, rfl⟩
  | accepted _ hidle | illegal _ hidle | rounds hidle | retry hidle | drawlim hidle | word _ _ hidle =>
    simp [hf] at hidle

/-- Settles O56: while BUSY only a CTRL write reaches the command. -/
theorem hostCannotChangeAFlight : Obligations.HostCannotChangeAFlight := by
  intro s t a rest f hturns hf hstep
  cases stepsTo_of_step hstep with
  | engine _ hturn | noStep hturn => exact absurd hturns hturn.not_host
  | hardReset hturn => simp [hturns] at hturn
  | served _ hblock =>
    obtain ⟨hcmd, hrounds, hretry, hdrawlim⟩ := hblock.limits_eq
    exact .inl ⟨hblock.flight_eq.trans hf, hrounds, hretry, hdrawlim, hcmd⟩
  | written hturn hwrite =>
    obtain ⟨rfl, -⟩ : Access.mk _ true 4 _ = a ∧ _ := by simpa [hturns, hostWrite, eq_comm] using hturn
    obtain hgoes | ⟨hends, rfl, hd⟩ := hwrite.flight_eq hf
    · exact .inl hgoes
    · exact .inr ⟨hends, rfl, rfl, hd⟩

/-! CTRL and STATUS writes -/

theorem step_writeCtrl {s : State} {d : Word} {rest : List Turn} (h : s.turns = hostWrite s 0x008 d :: rest) :
    step s = .next (((s.withTurns rest).respondFree false).writeCtrl d) :=
  step_write h (by decide) rfl

theorem step_writeStatus {s : State} {d : Word} {rest : List Turn} (h : s.turns = hostWrite s 0x00C d :: rest) :
    step s = .next (((s.withTurns rest).respondFree false).writeStatus d) :=
  step_write h (by decide) rfl

/-- A CTRL write with SRST and ABORT clear sets IE alone (R32). -/
theorem State.writeCtrl_ie_only {s : State} {d : Word} (h2 : d.getLsbD 2 = false) (h1 : d.getLsbD 1 = false) :
    s.writeCtrl d = s.setIe (d.getLsbD 0) := by
  simp only [State.writeCtrl, h2, h1, Bool.false_eq_true, if_false]

/-- Settles O14: the write is `writeStatus`. -/
theorem statusWriteClears : Obligations.StatusWriteClears := by
  intro s d rest hturns
  refine ⟨_, step_writeStatus hturns, rfl, rfl, ?_, rfl⟩
  simp [sameBlock]

/-- The engine turn that ends a command sets DONE and keeps IE (R46). -/
theorem step_engine_ends {s t : State} (hturn : engineNext s) (hf : s.flight ≠ none) (hstep : step s = .next t)
    (hends : t.flight = none) : t.done = true ∧ t.ie = s.ie := by
  cases stepsTo_of_step hstep with
  | engine f =>
    have hkeeps := advanceOf_engineStep f (s.withTurns s.turns.tail)
    obtain ⟨f', -, hgoes, -⟩ | ⟨-, hdone, -⟩ := hkeeps.flight
    · simp [hends] at hgoes
    · exact ⟨hdone, hkeeps.control.2.1⟩
  | noStep => exact absurd hends hf
  | hardReset h | served h | written h => obtain h' | ⟨_, h'⟩ := hturn <;> simp [h', hostWrite] at h

/-- Settles O20: `irq` is DONE and IE, and each of the four turns sets them. -/
theorem interruptFollowsCompletion : Obligations.InterruptFollowsCompletion := by
  intro s t hstep
  refine ⟨fun hturn hf hends hie => ?_, fun hie => by simp [State.irq, hie], fun d rest hturns hd => ?_,
    fun d rest hturns h0 h1 h2 hdone => ?_⟩
  · obtain ⟨hdone, hkept⟩ := step_engine_ends hturn hf hstep hends
    simp [State.irq, hdone, hkept, hie]
  · obtain rfl := Host.Outcome.next.inj ((step_writeStatus hturns).symm.trans hstep)
    simp [State.irq, hd]
  · obtain rfl := Host.Outcome.next.inj ((step_writeCtrl hturns).symm.trans hstep)
    rw [State.writeCtrl_ie_only h2 h1]
    simp [State.irq, h0, hdone]

end Sys2Proof.Machine

/-! Every step keeps the invariant (R21, R33, R34, R43, R121 to R133, R161, R181): the shape of the registers, a test
under way, a candidate, a start, an engine step, an admitted write, and then a step. -/

namespace Sys2Proof.Machine

/-! The parts of the invariant -/

/-- The part of the invariant that no command speaks of: legal parameters (R6) and `WW` words in every register (R21). -/
def State.shaped (s : State) : Prop := s.cfg.wf ∧ ∀ r, (s.reg r).length = s.cfg.ww

theorem State.Inv.shaped {s : State} (h : s.Inv) : s.shaped := ⟨h.1, h.2.1⟩

theorem State.shaped.of_br {s t : State} (h : s.shaped) (hcfg : t.cfg = s.cfg) (hbr : t.br = s.br) : t.shaped := by
  refine ⟨hcfg ▸ h.1, fun r => ?_⟩
  rw [State.reg_congr hbr, hcfg]
  exact h.2 r

theorem State.shaped.writeBig {s : State} (h : s.shaped) (r : Reg) {v : List Word} (hv : v.length = s.cfg.ww) :
    (s.writeBig r v).shaped := by
  refine ⟨h.1, fun r' => ?_⟩
  rw [State.reg_writeBig]
  split
  · rw [List.length_map, hv, State.writeBig_cfg]
  · exact h.2 r'

theorem State.shaped.writeWord {s : State} (h : s.shaped) (r : Reg) (j : Nat) (d : Word) : (s.writeWord r j d).shaped := by
  refine ⟨h.1, fun r' => ?_⟩
  rw [State.reg_writeWord]
  split
  · rw [List.length_set]; exact h.2 r
  · exact h.2 r'

@[simp] theorem length_encU (ww z : Nat) : (encU ww z).length = ww := length_toWords ww z

@[simp] theorem length_encS (ww : Nat) (z : Int) : (encS ww z).length = ww := length_toWords ww _

/-- The record of a command in flight speaks of the parameters and the limits alone. -/
theorem InFlight.ok_congr {s t : State} (f : InFlight) (hcfg : t.cfg = s.cfg) (hrounds : t.rounds = s.rounds)
    (hretry : t.retry = s.retry) (hdrawlim : t.drawlim = s.drawlim) : f.ok t ↔ f.ok s := by
  cases f <;> simp only [InFlight.ok, hcfg, hrounds, hretry, hdrawlim]

/-- The invariant of an idle block. -/
theorem State.shaped.inv_idle {t : State} (h : t.shaped) (hf : t.flight = none) (hp : t.prime = true → t.err = .noError) :
    t.Inv :=
  ⟨h.1, h.2, hp, by simp [State.flightOk, hf]⟩

theorem State.shaped.inv_complete {s : State} (h : s.shaped) {e : ErrCode} {p : Bool} (hp : p = true → e = .noError) :
    (s.complete e p).Inv :=
  State.shaped.inv_idle (h.of_br rfl rfl) rfl hp

theorem State.shaped.inv_completePgen {s : State} (h : s.shaped) (n : Nat) {e : ErrCode} {p : Bool}
    (hp : p = true → e = .noError) : (s.completePgen n e p).Inv :=
  State.shaped.inv_idle (h.of_br rfl rfl) rfl hp

/-- What the invariant says of the command in flight. -/
theorem State.Inv.of_flight {s : State} {f : InFlight} (h : s.Inv) (hf : s.flight = some f) :
    s.done = false ∧ s.err = .noError ∧ s.prime = false ∧ s.cmdLast = encode f.instr ∧ f.instr.wellFormed = true ∧
      f.ok s := by
  obtain ⟨-, -, -, hflight⟩ := h
  simpa only [State.flightOk, hf] using hflight

/-- A command in flight that goes on with a record in order. -/
theorem State.Inv.launch {s : State} {f f' : InFlight} (h : s.Inv) (hf : s.flight = some f)
    (hinstr : f'.instr = f.instr) (hok : f'.ok s) : (s.launch f').Inv := by
  obtain ⟨hdone, herr, hprime, hcmd, hwf, -⟩ := h.of_flight hf
  refine ⟨h.1, h.2.1, h.2.2.1, hdone, herr, hprime, ?_, ?_, (f'.ok_congr rfl rfl rfl rfl).mpr hok⟩
  · rw [hinstr]; exact hcmd
  · rw [hinstr]; exact hwf

/-- The invariant speaks of the block alone, OVR, IE, CANDCNT and a cleared DONE left out. -/
theorem State.Inv.congr {s t : State} (h : s.Inv) (hcfg : t.cfg = s.cfg) (hbr : t.br = s.br)
    (hdone : s.done = false → t.done = false) (hprime : t.prime = s.prime) (herr : t.err = s.err)
    (hcmd : t.cmdLast = s.cmdLast) (hrounds : t.rounds = s.rounds) (hretry : t.retry = s.retry)
    (hdrawlim : t.drawlim = s.drawlim) (hflight : t.flight = s.flight) : t.Inv := by
  have hshaped := h.shaped.of_br hcfg hbr
  refine ⟨hshaped.1, hshaped.2, by rw [hprime, herr]; exact h.2.2.1, ?_⟩
  cases hf : s.flight with
  | none => simp [State.flightOk, hflight, hf]
  | some f =>
    obtain ⟨h1, h2, h3, h4, h5, h6⟩ := h.of_flight hf
    simp only [State.flightOk, hflight, hf]
    exact ⟨hdone h1, herr.trans h2, hprime.trans h3, hcmd.trans h4, h5,
      (f.ok_congr hcfg hrounds hretry hdrawlim).mpr h6⟩

theorem State.Inv.of_sameBlock {s t : State} (h : s.Inv) (hb : sameBlock s t) : t.Inv := by
  obtain ⟨hcfg, hbr, -, hdone, hprime, -, herr, hcmd, hrounds, hretry, hdrawlim, -, hflight⟩ := hb
  exact h.congr hcfg hbr (hdone ▸ id) hprime herr hcmd hrounds hretry hdrawlim hflight

theorem State.Inv.countDraw {s : State} (h : s.Inv) : s.countDraw.Inv := h.of_sameBlock (by simp [sameBlock])

/-! A test under way (R123) -/

theorem insertBase_eq_insert (a : Nat) (seen : List Nat) : insertBase a seen = seen.insert a := by
  simp [insertBase, List.insert]

theorem length_insertBase_le (a : Nat) (seen : List Nat) : (insertBase a seen).length ≤ seen.length + 1 := by
  unfold insertBase
  split
  · omega
  · simp

/-- A test before its first draw is in order (R121, R133). -/
theorem TestProgress.ok_fresh {rounds drawlim n : Nat} (hn : 3 ≤ n) (hr : 0 < rounds) :
    (TestProgress.fresh n).ok rounds drawlim := by
  simp [TestProgress.ok, TestProgress.fresh, hn, hr]

/-- A test that goes on after a base of its range stays in order: the base was skipped, or it passed. -/
theorem TestProgress.ok.judgeBase {rounds drawlim a : Nat} {p p' : TestProgress} (h : p.ok rounds drawlim)
    (hdraws : p.draws ≠ drawlim) (ha : 2 ≤ a ∧ a ≤ p.n - 1) (hj : judgeBase rounds p a = .more p') :
    p'.ok rounds drawlim ∧ p'.n = p.n := by
  obtain ⟨hn, hrounds, hrd, hdl, hlen, hnodup, hseen⟩ := h
  obtain ⟨-, -, hb⟩ | ⟨-, -, hb⟩ | ⟨-, -, -, hb⟩ | ⟨-, hpass, hlast, hb⟩ := judgeBase_cases rounds p a <;>
    rw [hb] at hj <;> cases hj
  · exact ⟨⟨hn, hrounds, by simp only; omega, by simp only; omega, hlen, hnodup, hseen⟩, rfl⟩
  · have hlen' := length_insertBase_le a p.seen
    refine ⟨⟨hn, by simp only; omega, by simp only; omega, by simp only; omega, by simp only; omega, ?_, ?_⟩, rfl⟩
    · simp only [insertBase_eq_insert]
      exact hnodup.insert
    · simp only [insertBase_eq_insert, List.mem_insert_iff]
      rintro x (rfl | hx)
      · exact ⟨ha.1, ha.2, hpass⟩
      · exact hseen x hx

/-- What a test step in order does: it ends the command or the test, or draws once and goes on in order. -/
theorem testStep_inv_cases {s : State} {p : TestProgress} (hok : p.ok s.rounds.toNat s.drawlim.toNat) :
    testStep p s = (.exhausted, s) ∨
    (∃ v, testStep p s = (v, s.countDraw) ∧ (v = .entropyFail ∨ v = .failed ∨ v = .passed)) ∨
    ∃ p', testStep p s = (.more p', s.countDraw) ∧ p'.ok s.rounds.toNat s.drawlim.toNat ∧ p'.n = p.n := by
  have hn : 2 ≤ p.n - 1 := by have := hok.1; omega
  obtain ⟨-, h⟩ | ⟨-, -, h⟩ | ⟨hdraws, a, ha, h⟩ := testStep_cases p s
  · exact .inl h
  · exact .inr (.inl ⟨_, h, .inl rfl⟩)
  · cases hj : judgeBase s.rounds.toNat p a with
    | more p' => exact .inr (.inr ⟨p', hj ▸ h, hok.judgeBase hdraws (State.draw_mem hn ha) hj⟩)
    | failed | passed => exact .inr (.inl ⟨_, hj ▸ h, by simp⟩)
    | exhausted | entropyFail =>
      obtain ⟨-, -, hb⟩ | ⟨-, -, hb⟩ | ⟨-, -, -, hb⟩ | ⟨-, -, -, hb⟩ := judgeBase_cases s.rounds.toNat p a <;>
        simp [hb] at hj

/-! Candidates (R132) -/

/-- A candidate is odd and has exactly BITS bits. -/
theorem candidateOf_spec {bits r : Nat} (hbits : 1 ≤ bits) (hr : r ≤ 2 ^ bits - 1) :
    candidateOf bits r % 2 = 1 ∧ 2 ^ (bits - 1) ≤ candidateOf bits r ∧ candidateOf bits r < 2 ^ bits := by
  have hpos : 0 < 2 ^ bits := Nat.two_pow_pos bits
  refine ⟨Nat.or_mod_two_eq_one.mpr (.inr rfl), Nat.right_le_or.trans Nat.left_le_or, ?_⟩
  refine Nat.or_lt_two_pow (Nat.or_lt_two_pow (by omega) ?_) (Nat.one_lt_two_pow (by omega))
  exact Nat.pow_lt_pow_right (by omega) (by omega)

/-- A candidate of at least two bits can be tested (R133). -/
theorem three_le_candidateOf {bits r : Nat} (hbits : 2 ≤ bits) (hr : r ≤ 2 ^ bits - 1) : 3 ≤ candidateOf bits r := by
  obtain ⟨hodd, hlow, -⟩ := candidateOf_spec (by omega) hr
  have h2 : 2 ≤ 2 ^ (bits - 1) := Nat.le_self_pow (by omega) 2
  omega

/-! Starts (R121, R131, R161, R168, R181) -/

/-- A pattern of `w` bits read in two's complement is in the signed range (R13, R181). -/
theorem operandRange_svalOf {w u : Nat} (hw : 1 ≤ w) (hu : u < 2 ^ w) : operandRange w true (svalOf w u) := by
  obtain ⟨n, rfl⟩ : ∃ n, w = n + 1 := ⟨w - 1, by omega⟩
  have h2 : (2 : Int) ^ (n + 1) = 2 * 2 ^ n := by ring
  have hlt : (u : Int) < 2 * 2 ^ n := by rw [← h2]; exact_mod_cast hu
  simp only [operandRange, if_true, svalOf, Nat.add_sub_cancel]
  cases hb : u.testBit n with
  | true =>
    have hge : (2 : Int) ^ n ≤ u := by exact_mod_cast Nat.ge_two_pow_of_testBit hb
    simp only [if_true]
    omega
  | false =>
    have hlow : (u : Int) < 2 ^ n := by
      have : u < 2 ^ n := Nat.lt_pow_two_of_testBit u fun i hi => by
        obtain rfl | hgt : i = n ∨ n + 1 ≤ i := by omega
        · exact hb
        · exact Nat.testBit_lt_two_pow (hu.trans_le (Nat.pow_le_pow_right (by omega) hgt))
      exact_mod_cast this
    simp only [Bool.false_eq_true, if_false]
    omega

/-- An EGCD operand of a shaped state is in its range (R181). -/
theorem State.shaped.operandRange {s : State} (h : s.shaped) (sgn : Bool) (r : Reg) :
    operandRange s.cfg.w sgn (if sgn then s.sval r else (s.uval r : Int)) := by
  have hlt := State.uval_lt (h.2 r)
  cases sgn with
  | true =>
    have hw : 1 ≤ s.cfg.w := by have := h.1.1; unfold Params.w; omega
    exact operandRange_svalOf hw hlt
  | false =>
    have hlt' : (s.uval r : Int) < 2 ^ s.cfg.w := by exact_mod_cast hlt
    simp only [Machine.operandRange, Bool.false_eq_true, if_false]
    omega

theorem toNat_pos_of_ne_zero {n : Nat} {x : BitVec n} (h : x ≠ 0) : 0 < x.toNat := by
  have h0 : x.toNat ≠ 0 := fun h0 => h (BitVec.eq_of_toNat_eq h0)
  omega

/-- A start of a shaped state completes with an error, or puts the command in flight with a record in order. -/
theorem State.shaped.startOf_cases {s : State} (h : s.shaped) (i : Instr) :
    (∃ e, startOf i s = s.complete e false) ∨ ∃ f, f.instr = i ∧ f.ok s ∧ startOf i s = s.launch f := by
  have hlt : ∀ r, s.uval r < 2 ^ s.cfg.w := fun r => State.uval_lt (h.2 r)
  cases i with
  | modexp rd rs1 rs2 rs3 =>
    by_cases h0 : s.uval rs3 = 0
    · exact .inl ⟨.modZero, if_pos h0⟩
    · exact .inr ⟨.modexp .., rfl, ⟨by omega, hlt rs1, hlt rs2, hlt rs3⟩, if_neg h0⟩
  | modmul rd rs1 rs2 rs3 =>
    by_cases h0 : s.uval rs3 = 0
    · exact .inl ⟨.modZero, if_pos h0⟩
    · exact .inr ⟨.modmul .., rfl, ⟨by omega, hlt rs1, hlt rs2, hlt rs3⟩, if_neg h0⟩
  | egcd rd rd2 rd3 rs1 rs2 sgn =>
    exact .inr ⟨.egcd .., rfl, ⟨h.operandRange sgn rs1, h.operandRange sgn rs2⟩, rfl⟩
  | ptest rs1 =>
    by_cases h0 : s.rounds = 0 ∨ s.uval rs1 < 3
    · exact .inl ⟨.operand, if_pos h0⟩
    · obtain ⟨hrounds, hn⟩ := not_or.mp h0
      exact .inr ⟨.ptest .., rfl, ⟨TestProgress.ok_fresh (Nat.not_lt.mp hn) (toNat_pos_of_ne_zero hrounds), hlt rs1⟩,
        if_neg h0⟩
  | pgen rd bits =>
    by_cases h0 : s.rounds = 0 ∨ bits.toNat < 2 ∨ s.cfg.w < bits.toNat
    · exact .inl ⟨.operand, if_pos h0⟩
    · have hcond := h0
      simp only [not_or, not_lt] at hcond
      obtain ⟨hrounds, hlow, hhigh⟩ := hcond
      exact .inr ⟨.pgen .., rfl, ⟨hrounds, hlow, hhigh, Nat.zero_le _, trivial⟩, if_neg h0⟩

/-- An accept step of an idle block keeps the invariant (R47). -/
theorem State.shaped.inv_accept {s : State} (h : s.shaped) (hidle : s.flight = none) (i : Instr) :
    (s.accept i (startOf i)).Inv := by
  have hbegin : (s.beginAccept (encode i)).shaped := h.of_br rfl rfl
  obtain ⟨-, ha⟩ | ⟨-, r, j, -, ha⟩ | ⟨hwf, -, ha⟩ := s.accept_cases i (startOf i) <;> rw [ha]
  · exact hbegin.inv_complete nofun
  · exact State.shaped.inv_idle (h.of_br (by simp) (by simp)) (by simp [hidle]) (by simp)
  · obtain ⟨e, hs⟩ | ⟨f, rfl, hok, hs⟩ := hbegin.startOf_cases i <;> rw [hs]
    · exact hbegin.inv_complete nofun
    · exact ⟨h.1, h.2, nofun, rfl, rfl, rfl, rfl, hwf, (f.ok_congr rfl rfl rfl rfl).mpr hok⟩

/-! Engine steps -/

theorem State.Inv.finishEgcd {s : State} (h : s.Inv) (rd rd2 rd3 : Reg) (sgn : Bool) (a b : Int) :
    (finishEgcd rd rd2 rd3 sgn a b s).Inv := by
  obtain ⟨-, -, -, he⟩ | ⟨-, he⟩ := finishEgcd_cases rd rd2 rd3 sgn a b s <;> rw [he]
  · refine State.shaped.inv_complete ?_ nofun
    refine ((h.shaped.writeBig rd ?_).writeBig rd2 ?_).writeBig rd3 ?_
    · split <;> simp
    · simp
    · simp
  · exact h.shaped.inv_complete nofun

theorem State.Inv.advancePtest {s : State} {rs1 : Reg} {p : TestProgress} (h : s.Inv)
    (hf : s.flight = some (.ptest rs1 p)) : (advancePtest rs1 p s).Inv := by
  obtain ⟨-, -, -, -, -, hok, hn⟩ := h.of_flight hf
  unfold Machine.advancePtest
  obtain ht | ⟨v, ht, hv⟩ | ⟨p', ht, hok', hn'⟩ := testStep_inv_cases hok <;> rw [ht]
  · exact h.shaped.inv_complete nofun
  · obtain rfl | rfl | rfl := hv
    · exact h.countDraw.shaped.inv_complete nofun
    · exact h.countDraw.shaped.inv_complete nofun
    · exact h.countDraw.shaped.inv_complete fun _ => rfl
  · exact h.countDraw.launch hf rfl ⟨hok', hn' ▸ hn⟩

theorem State.Inv.advanceCandidate {s : State} {rd : Reg} {bits : BitVec 16} {cand : Nat} (h : s.Inv)
    (hf : s.flight = some (.pgen rd bits cand .needCandidate)) : (advanceCandidate rd bits cand s).Inv := by
  obtain ⟨-, -, -, -, -, hrounds, hlow, hhigh, hcand, -⟩ := h.of_flight hf
  obtain ⟨-, ha⟩ | ⟨-, -, ha⟩ | ⟨hne, r, hr, ⟨-, ha⟩ | ⟨-, ha⟩⟩ := advanceCandidate_cases rd bits cand s <;> rw [ha]
  · exact h.shaped.inv_completePgen _ nofun
  · exact h.countDraw.shaped.inv_completePgen _ nofun
  · exact h.countDraw.shaped.inv_completePgen _ nofun
  · have hrange : r ≤ 2 ^ bits.toNat - 1 := (State.draw_mem (Nat.zero_le _) hr).2
    refine h.countDraw.launch hf rfl ⟨hrounds, hlow, hhigh, ?_, ?_, ?_, candidateOf_spec (by omega) hrange⟩
    · change cand + 1 ≤ s.retry.toNat
      omega
    · omega
    · exact TestProgress.ok_fresh (three_le_candidateOf hlow hrange) (toNat_pos_of_ne_zero hrounds)

theorem State.Inv.advancePgen {s : State} {rd : Reg} {bits : BitVec 16} {cand : Nat} {p : TestProgress} (h : s.Inv)
    (hf : s.flight = some (.pgen rd bits cand (.testing p))) : (advancePgen rd bits cand p s).Inv := by
  obtain ⟨-, -, -, -, -, hrounds, hlow, hhigh, hcand, hone, hok, hn⟩ := h.of_flight hf
  unfold Machine.advancePgen
  obtain ht | ⟨v, ht, hv⟩ | ⟨p', ht, hok', hn'⟩ := testStep_inv_cases hok <;> rw [ht]
  · exact h.shaped.inv_completePgen _ nofun
  · obtain rfl | rfl | rfl := hv
    · exact h.countDraw.shaped.inv_completePgen _ nofun
    · exact h.countDraw.launch hf rfl ⟨hrounds, hlow, hhigh, hcand, trivial⟩
    · exact (h.countDraw.shaped.writeBig rd (length_encU ..)).inv_completePgen _ fun _ => rfl
  · exact h.countDraw.launch hf rfl ⟨hrounds, hlow, hhigh, hcand, hone, hok', hn' ▸ hn⟩

/-- Every engine step keeps the invariant. -/
theorem State.Inv.advanceOf {s : State} {f : InFlight} (h : s.Inv) (hf : s.flight = some f) : (advanceOf f s).Inv := by
  cases f with
  | modexp | modmul => exact (h.shaped.writeBig _ (length_encU ..)).inv_complete nofun
  | egcd => exact h.finishEgcd ..
  | ptest => exact h.advancePtest hf
  | pgen rd bits cand phase =>
    cases phase with
    | needCandidate => exact h.advanceCandidate hf
    | testing p => exact h.advancePgen hf

/-! Host writes and steps -/

theorem State.Inv.writeCtrl {s : State} (h : s.Inv) (d : Word) : (s.writeCtrl d).Inv := by
  obtain ⟨-, hw⟩ | ⟨-, -, hw⟩ | ⟨-, -, hw⟩ := s.writeCtrl_cases d <;> rw [hw]
  · exact State.shaped.inv_idle (h.shaped.of_br rfl rfl) rfl nofun
  · have hie : (s.setIe (d.getLsbD 0)).Inv := h.congr rfl rfl id rfl rfl rfl rfl rfl rfl rfl
    obtain ⟨-, ha⟩ | ⟨rd, bits, cand, ph, -, ha⟩ | ⟨-, ha⟩ := (s.setIe (d.getLsbD 0)).abort_cases <;> rw [ha]
    · exact hie
    · exact hie.shaped.inv_completePgen _ nofun
    · exact hie.shaped.inv_complete nofun
  · exact h.congr rfl rfl id rfl rfl rfl rfl rfl rfl rfl

theorem HostWrites.inv {s t : State} {d : Word} {off : Nat} (h : HostWrites s d off t) (hs : s.Inv) : t.Inv := by
  cases h with
  | ignored => exact hs
  | ctrl => exact hs.writeCtrl d
  | status => exact hs.congr rfl rfl (by simp +contextual) rfl rfl rfl rfl rfl rfl rfl
  | dropped => exact hs.congr rfl rfl id rfl rfl rfl rfl rfl rfl rfl
  | accepted i hidle => exact hs.shaped.inv_accept hidle i
  | illegal => exact State.shaped.inv_idle (hs.shaped.of_br rfl rfl) rfl nofun
  | rounds hidle | retry hidle | drawlim hidle => exact State.shaped.inv_idle (hs.shaped.of_br rfl rfl) hidle hs.2.2.1
  | word r j hidle => exact State.shaped.inv_idle (hs.shaped.writeWord r j d) hidle hs.2.2.1

/-- Settles O7: by what the step does. -/
theorem stepKeepsInvariant : Obligations.StepKeepsInvariant := by
  intro s t hinv hstep
  cases stepsTo_of_step hstep with
  | engine f _ _ hflight =>
    have h : (s.withTurns s.turns.tail).Inv := hinv.of_sameBlock (by simp [sameBlock])
    exact h.advanceOf hflight
  | noStep => exact hinv.of_sameBlock (by simp [sameBlock])
  | hardReset => exact State.shaped.inv_idle ⟨hinv.1, length_reg_resetOf s.cfg⟩ rfl nofun
  | served _ hblock => exact hinv.of_sameBlock hblock
  | written _ hwrite => exact hwrite.inv (hinv.of_sameBlock (by simp [sameBlock]))

end Sys2Proof.Machine

/-! What a BR word holds before it is written is seen by nothing (R24): most operations do not look at the registers,
a write of a register puts the same words into both, and a command's sources are written where it starts. -/

namespace Sys2Proof.Machine

/-! States that differ in unwritten contents -/

/-- The state with another register file. -/
def State.withBr (s : State) (b : Vector BigReg 8) : State := { s with br := b }

@[simp] theorem State.withBr_rounds (s : State) (b : Vector BigReg 8) : (s.withBr b).rounds = s.rounds := rfl
@[simp] theorem State.withBr_retry (s : State) (b : Vector BigReg 8) : (s.withBr b).retry = s.retry := rfl
@[simp] theorem State.withBr_drawlim (s : State) (b : Vector BigReg 8) : (s.withBr b).drawlim = s.drawlim := rfl
@[simp] theorem State.withBr_flight (s : State) (b : Vector BigReg 8) : (s.withBr b).flight = s.flight := rfl
@[simp] theorem State.withBr_fault (s : State) (b : Vector BigReg 8) : (s.withBr b).fault = s.fault := rfl
@[simp] theorem State.withBr_entropy (s : State) (b : Vector BigReg 8) : (s.withBr b).entropy = s.entropy := rfl

/-- The operation neither reads nor writes the register file. -/
def ignoresBr (F : State → State) : Prop := ∀ s b, F (s.withBr b) = (F s).withBr b

theorem sameButUnwritten_iff {s s' : State} :
    sameButUnwritten s s' ↔
      ∃ b, s' = s.withBr b ∧ ∀ r, (s.reg r).map BrWord.visible = ((s.withBr b).reg r).map BrWord.visible := by
  constructor
  · rintro ⟨hs, hvis⟩
    have hs' : s' = s.withBr s'.br := congrArg (·.withBr s'.br) hs
    exact ⟨s'.br, hs', fun r => hs' ▸ hvis r⟩
  · rintro ⟨b, rfl, hvis⟩
    exact ⟨rfl, hvis⟩

section
variable {s s' : State} (h : sameButUnwritten s s')
include h

/-- What does not look at the registers keeps the two states alike. -/
theorem sameButUnwritten.map {F : State → State} (hF : ignoresBr F) : sameButUnwritten (F s) (F s') := by
  obtain ⟨b, rfl, hvis⟩ := sameButUnwritten_iff.mp h
  have hbr : (F s).br = s.br := by rw [show F s = (F s).withBr s.br from hF s s.br]; rfl
  refine sameButUnwritten_iff.mpr ⟨b, hF s b, fun r => ?_⟩
  rw [State.reg_congr hbr]
  exact hvis r

theorem sameButUnwritten.complete (e : ErrCode) (p : Bool) : sameButUnwritten (s.complete e p) (s'.complete e p) :=
  h.map (F := (·.complete e p)) fun _ _ => rfl

theorem sameButUnwritten.completePgen (n : Nat) (e : ErrCode) (p : Bool) :
    sameButUnwritten (s.completePgen n e p) (s'.completePgen n e p) :=
  h.map (F := (·.completePgen n e p)) fun _ _ => rfl

theorem sameButUnwritten.launch (f : InFlight) : sameButUnwritten (s.launch f) (s'.launch f) :=
  h.map (F := (·.launch f)) fun _ _ => rfl

theorem sameButUnwritten.dropWrite : sameButUnwritten s.dropWrite s'.dropWrite :=
  h.map (F := State.dropWrite) fun _ _ => rfl

/-- A register replaced by contents that look alike. -/
theorem sameButUnwritten.setReg (r : Reg) {x x' : BigReg} (hx : x.map BrWord.visible = x'.map BrWord.visible) :
    sameButUnwritten (s.setReg r x) (s'.setReg r x') := by
  obtain ⟨b, rfl, hvis⟩ := sameButUnwritten_iff.mp h
  refine ⟨rfl, fun r' => ?_⟩
  rw [State.reg_setReg, State.reg_setReg]
  split
  · exact hx
  · exact hvis r'

theorem sameButUnwritten.writeBig (r : Reg) (v : List Word) : sameButUnwritten (s.writeBig r v) (s'.writeBig r v) :=
  h.setReg r rfl

theorem sameButUnwritten.writeWord (r : Reg) (j : Nat) (d : Word) :
    sameButUnwritten (s.writeWord r j d) (s'.writeWord r j d) :=
  h.setReg r (by rw [List.map_set, List.map_set, h.2 r])

/-- A word looks alike in both states. -/
theorem sameButUnwritten.visible_word (r : Reg) (j : Nat) : (s.word r j).visible = (s'.word r j).visible := by
  rw [State.word, State.word, ← List.getD_map (f := BrWord.visible), ← List.getD_map (f := BrWord.visible), h.2 r]

end

/-- The check of R47 looks at the marks alone. -/
theorem unwrittenAt_congr {x x' : BigReg} (h : x.map BrWord.visible = x'.map BrWord.visible) :
    unwrittenAt x = unwrittenAt x' := by
  have hmarks : ∀ x : BigReg, unwrittenAt x = (x.map BrWord.visible).findIdx? fun p => !p.1 := fun x => by
    rw [List.findIdx?_map]; rfl
  rw [hmarks, hmarks, h]

theorem sameButUnwritten.firstUnwritten_eq {s s' : State} (h : sameButUnwritten s s') (rs : List Reg) :
    s'.firstUnwritten rs = s.firstUnwritten rs := by
  induction rs with
  | nil => rfl
  | cons r rs ih => rw [State.firstUnwritten, State.firstUnwritten, unwrittenAt_congr (h.2 r), ih]

/-- A written word is what is visible of it. -/
theorem BrWord.eq_of_visible {w w' : BrWord} (hw : w.wr = true) (h : w.visible = w'.visible) : w = w' := by
  obtain ⟨d, m⟩ := w
  obtain ⟨d', m'⟩ := w'
  simp only at hw
  subst hw
  simp only [BrWord.visible, if_true, Prod.mk.injEq] at h
  obtain ⟨rfl, hd⟩ := h
  rw [if_pos rfl, Option.some.injEq] at hd
  rw [hd]

/-- A register that is written whole is what is visible of it. -/
theorem bigReg_eq_of_visible {x x' : BigReg} (hx : ∀ w ∈ x, w.wr = true)
    (h : x.map BrWord.visible = x'.map BrWord.visible) : x = x' := by
  induction x generalizing x' with
  | nil => exact (List.map_eq_nil_iff.mp h.symm).symm
  | cons w ws ih =>
    cases x' with
    | nil => cases h
    | cons w' ws' =>
      simp only [List.map_cons, List.cons.injEq] at h
      rw [BrWord.eq_of_visible (hx w (List.mem_cons_self ..)) h.1, ih (fun v hv => hx v (List.mem_cons_of_mem _ hv)) h.2]

/-- A source that is written whole has one value in both states. -/
theorem sameButUnwritten.uval_eq {s s' : State} (h : sameButUnwritten s s') {r : Reg}
    (hr : ∀ w ∈ s.reg r, w.wr = true) : s'.uval r = s.uval r :=
  State.uval_congr (bigReg_eq_of_visible hr (h.2 r)).symm

/-! Operations that do not look at the registers -/

theorem ignoresBr_abort : ignoresBr State.abort := by
  intro s b
  cases hf : s.flight with
  | none => simp only [State.abort, State.withBr_flight, hf]
  | some f => cases f <;> (simp only [State.abort, State.withBr_flight, hf]; rfl)

theorem ignoresBr_writeCtrl (d : Word) : ignoresBr (·.writeCtrl d) := by
  intro s b
  simp only [State.writeCtrl]
  split
  · rfl
  · split
    · exact ignoresBr_abort (s.setIe _) b
    · rfl

theorem ignoresBr_recordFault (x : FaultReason) : ignoresBr (·.recordFault x) := by
  intro s b
  cases hf : s.fault <;> simp only [State.recordFault, State.withBr_fault, hf]
  rfl

/-- A draw looks at the entropy at hand alone (R9). -/
theorem State.draw_withBr (s : State) (b : Vector BigReg 8) (lo hi : Nat) :
    (s.withBr b).draw lo hi = ((s.draw lo hi).1, (s.draw lo hi).2.withBr b) := by
  cases he : s.entropy <;> (simp only [State.draw, State.withBr_entropy, he]; rfl)

theorem testStep_withBr (p : TestProgress) (s : State) (b : Vector BigReg 8) :
    testStep p (s.withBr b) = ((testStep p s).1, (testStep p s).2.withBr b) := by
  simp only [testStep, State.draw_withBr, State.withBr_drawlim]
  split
  · rfl
  · rcases s.draw 2 (p.n - 1) with ⟨_ | a, u⟩ <;> rfl

theorem ignoresBr_advancePtest (rs1 : Reg) (p : TestProgress) : ignoresBr (advancePtest rs1 p) := by
  intro s b
  unfold advancePtest
  rw [testStep_withBr]
  rcases testStep p s with ⟨v, u⟩
  cases v <;> rfl

theorem ignoresBr_candidateStep (rd : Reg) (bits : BitVec 16) (cand : Nat) : ignoresBr (candidateStep rd bits cand) := by
  intro s b
  simp only [candidateStep, State.draw_withBr, State.withBr_retry]
  split
  · rfl
  · rcases s.draw 0 (2 ^ bits.toNat - 1) with ⟨_ | r, u⟩ <;> rfl

theorem State.endWithoutDraws_testing {s : State} {rd : Reg} {bits : BitVec 16} {cand : Nat} {p : TestProgress}
    (hf : s.flight = some (.pgen rd bits cand (.testing p))) :
    s.endWithoutDraws = if s.drawlim = 0 then s.completePgen cand .exhausted false else s := by
  simp only [State.endWithoutDraws, hf]

theorem ignoresBr_endWithoutDraws : ignoresBr State.endWithoutDraws := by
  intro s b
  cases hf : s.flight with
  | none => simp only [State.endWithoutDraws, State.withBr_flight, hf]
  | some f =>
    cases f with
    | pgen rd bits cand phase =>
      cases phase with
      | needCandidate => simp only [State.endWithoutDraws, State.withBr_flight, hf]
      | testing p =>
        rw [State.endWithoutDraws_testing hf, State.endWithoutDraws_testing (s := s.withBr b) hf]
        by_cases h0 : s.drawlim = 0
        · rw [if_pos h0, if_pos (show (s.withBr b).drawlim = 0 from h0)]
          rfl
        · rw [if_neg h0, if_neg (show (s.withBr b).drawlim ≠ 0 from h0)]
    | modexp | modmul | egcd | ptest => simp only [State.endWithoutDraws, State.withBr_flight, hf]

theorem ignoresBr_advanceCandidate (rd : Reg) (bits : BitVec 16) (cand : Nat) :
    ignoresBr (advanceCandidate rd bits cand) := by
  intro s b
  unfold advanceCandidate
  rw [ignoresBr_candidateStep, ignoresBr_endWithoutDraws]

/-! Commands -/

theorem startOf_pgen_error {s : State} {rd : Reg} {bits : BitVec 16}
    (h : s.rounds = 0 ∨ bits.toNat < 2 ∨ s.cfg.w < bits.toNat) : startOf (.pgen rd bits) s = s.complete .operand false :=
  if_pos h

theorem startOf_pgen {s : State} {rd : Reg} {bits : BitVec 16}
    (h : ¬ (s.rounds = 0 ∨ bits.toNat < 2 ∨ s.cfg.w < bits.toNat)) :
    startOf (.pgen rd bits) s = s.launch (.pgen rd bits 0 .needCandidate) :=
  if_neg h

/-- A start whose sources are written reads the same values in both states. -/
theorem sameButUnwritten.startOf {s s' : State} (h : sameButUnwritten s s') {i : Instr}
    (hw : ∀ r ∈ sourcesOf i, ∀ w ∈ s.reg r, w.wr = true) : sameButUnwritten (startOf i s) (startOf i s') := by
  have huval : ∀ r ∈ sourcesOf i, s'.uval r = s.uval r := fun r hr => h.uval_eq (hw r hr)
  obtain ⟨b, rfl, -⟩ := sameButUnwritten_iff.mp h
  cases i with
  | modexp rd rs1 rs2 rs3 | modmul rd rs1 rs2 rs3 =>
    simp only [sourcesOf, List.mem_cons, List.not_mem_nil, or_false, forall_eq_or_imp, forall_eq] at huval
    obtain ⟨h1, h2, h3⟩ := huval
    simp only [Machine.startOf, startModexp, startModmul, h1, h2, h3]
    split
    · exact h.complete ..
    · exact h.launch _
  | egcd rd rd2 rd3 rs1 rs2 sgn =>
    simp only [sourcesOf, List.mem_cons, List.not_mem_nil, or_false, forall_eq_or_imp, forall_eq] at huval
    obtain ⟨h1, h2⟩ := huval
    simp only [Machine.startOf, startEgcd, State.sval, h1, h2]
    exact h.launch _
  | ptest rs1 =>
    simp only [sourcesOf, List.mem_cons, List.not_mem_nil, or_false, forall_eq] at huval
    simp only [Machine.startOf, startPtest, huval, State.withBr_rounds]
    split
    · exact h.complete ..
    · exact h.launch _
  | pgen rd bits =>
    by_cases h0 : s.rounds = 0 ∨ bits.toNat < 2 ∨ s.cfg.w < bits.toNat
    · rw [startOf_pgen_error h0, startOf_pgen_error (s := s.withBr b) h0]
      exact h.complete ..
    · rw [startOf_pgen h0, startOf_pgen (s := s.withBr b) h0]
      exact h.launch _

theorem sameButUnwritten.accept {s s' : State} (h : sameButUnwritten s s') (i : Instr) :
    sameButUnwritten (s.accept i (Machine.startOf i)) (s'.accept i (Machine.startOf i)) := by
  have hbegin : sameButUnwritten (s.beginAccept (encode i)) (s'.beginAccept (encode i)) :=
    h.map (F := (·.beginAccept _)) fun _ _ => rfl
  simp only [State.accept, hbegin.firstUnwritten_eq]
  split
  · exact h.map (F := (·.acceptIllegal _)) fun _ _ => rfl
  · cases hfirst : (s.beginAccept (encode i)).firstUnwritten (sourcesOf i) with
    | some p => exact hbegin.map (ignoresBr_recordFault _)
    | none => exact hbegin.startOf (State.firstUnwritten_eq_none.mp hfirst)

theorem sameButUnwritten.cfg_eq {s s' : State} (h : sameButUnwritten s s') : s'.cfg = s.cfg := by
  obtain ⟨b, rfl, -⟩ := sameButUnwritten_iff.mp h
  rfl

theorem sameButUnwritten.finishEgcd {s s' : State} (h : sameButUnwritten s s') (rd rd2 rd3 : Reg) (sgn : Bool)
    (a b : Int) : sameButUnwritten (finishEgcd rd rd2 rd3 sgn a b s) (finishEgcd rd rd2 rd3 sgn a b s') := by
  obtain ⟨hg, hx, hy, hs⟩ | ⟨hbad, hs⟩ := finishEgcd_cases rd rd2 rd3 sgn a b s <;>
    obtain ⟨hg', hx', hy', hs'⟩ | ⟨hbad', hs'⟩ := finishEgcd_cases rd rd2 rd3 sgn a b s'
  · rw [hs, hs', h.cfg_eq]
    exact (((h.writeBig rd _).writeBig rd2 _).writeBig rd3 _).complete ..
  · rw [h.cfg_eq] at hbad'
    simp [hg, hx, hy] at hbad'
  · rw [h.cfg_eq] at hg' hx' hy'
    simp [hg', hx', hy'] at hbad
  · rw [hs, hs']
    exact h.complete ..

theorem sameButUnwritten.advancePgen {s s' : State} (h : sameButUnwritten s s') (rd : Reg) (bits : BitVec 16)
    (cand : Nat) (p : TestProgress) :
    sameButUnwritten (advancePgen rd bits cand p s) (advancePgen rd bits cand p s') := by
  have hu : sameButUnwritten (testStep p s).2 (testStep p s').2 :=
    h.map (F := fun u => (testStep p u).2) fun u b => congrArg Prod.snd (testStep_withBr p u b)
  have hv : (testStep p s').1 = (testStep p s).1 := by
    obtain ⟨b, rfl, -⟩ := sameButUnwritten_iff.mp h
    rw [testStep_withBr]
  unfold Machine.advancePgen
  generalize testStep p s = res at hu hv ⊢
  generalize testStep p s' = res' at hu hv ⊢
  obtain ⟨v, u⟩ := res
  obtain ⟨v', u'⟩ := res'
  obtain rfl : v' = v := hv
  replace hu : sameButUnwritten u u' := hu
  cases v' with
  | exhausted | entropyFail => exact hu.completePgen ..
  | failed | more => exact hu.launch _
  | passed =>
    simp only [hu.cfg_eq]
    exact (hu.writeBig rd _).completePgen ..

/-- An engine step shows nothing of an unwritten word. -/
theorem sameButUnwritten.advanceOf {s s' : State} (h : sameButUnwritten s s') (f : InFlight) :
    sameButUnwritten (advanceOf f s) (advanceOf f s') := by
  cases f with
  | modexp rd | modmul rd =>
    simp only [Machine.advanceOf, finishModexp, finishModmul, h.cfg_eq]
    exact (h.writeBig rd _).complete ..
  | egcd => exact h.finishEgcd ..
  | ptest rs1 p => exact h.map (ignoresBr_advancePtest rs1 p)
  | pgen rd bits cand phase =>
    cases phase with
    | needCandidate => exact h.map (ignoresBr_advanceCandidate rd bits cand)
    | testing p => exact h.advancePgen ..

/-! Turns -/

theorem serve_outside {s : State} {a : Access} (ho : offsetOf s.cfg.base a.addr = none) :
    serve a s = .next { s with resp := none } := by
  simp only [serve, ho]

theorem serve_refused {s : State} {a : Access} {off : Nat} (ho : offsetOf s.cfg.base a.addr = some off)
    (ha : admitted s.cfg.ww off a.size = none) :
    serve a s = .next ((s.respondFree true).recordFault (.hostBusError off)) := by
  simp only [serve, ho, ha]

theorem serve_admitted {s : State} {a : Access} {off : Nat} {tgt : Target}
    (ho : offsetOf s.cfg.base a.addr = some off) (ha : admitted s.cfg.ww off a.size = some tgt) :
    serve a s = if a.write then busWrite tgt a.wdata (s.respondFree false) else .next (s.busRead tgt) := by
  simp only [serve, ho, ha]

/-- Two answers that differ in unwritten contents alone. -/
def sameAnswers (r r' : Result) : Prop := ∃ t t', r = .next t ∧ r' = .next t' ∧ sameButUnwritten t t'

theorem sameButUnwritten.next {t t' : State} (h : sameButUnwritten t t') : sameAnswers (.next t) (.next t') :=
  ⟨t, t', rfl, rfl, h⟩

section
variable {s s' : State} (h : sameButUnwritten s s')
include h

theorem sameButUnwritten.flight_eq : s'.flight = s.flight := by
  obtain ⟨b, rfl, -⟩ := sameButUnwritten_iff.mp h
  rfl

theorem sameButUnwritten.fault_eq : s'.fault = s.fault := by
  obtain ⟨b, rfl, -⟩ := sameButUnwritten_iff.mp h
  rfl

theorem sameButUnwritten.turns_eq : s'.turns = s.turns := by
  obtain ⟨b, rfl, -⟩ := sameButUnwritten_iff.mp h
  rfl

theorem sameButUnwritten.engineTurn : sameAnswers (engineTurn s) (engineTurn s') := by
  obtain ⟨hfault, f, hf, -⟩ | ⟨hno, he⟩ := engineTurn_cases s
  · have hf' := h.flight_eq.trans hf
    rw [engineTurn_of_flight hfault hf, engineTurn_of_flight (h.fault_eq.trans hfault) hf', exec_own hf, exec_own hf']
    exact (h.advanceOf f).next
  · rw [he, engineTurn_of_no_step (by rwa [h.fault_eq, h.flight_eq])]
    exact h.next

/-- A read of the block shows what is visible of a word (R24, R64). -/
theorem sameButUnwritten.busRead (tgt : Target) : sameButUnwritten (s.busRead tgt) (s'.busRead tgt) := by
  cases tgt with
  | brWord r j =>
    have hvis := h.visible_word r j
    simp only [State.busRead]
    cases hw : (s.word r j).wr with
    | true =>
      rw [← BrWord.eq_of_visible hw hvis, if_pos hw, if_pos rfl]
      exact h.map (F := (·.respond _)) fun _ _ => rfl
    | false =>
      have hw' : (s'.word r j).wr = false := (congrArg Prod.fst hvis).symm.trans hw
      rw [hw', if_neg (by simp)]
      exact (h.map (F := (·.respondFree false)) fun _ _ => rfl).map (ignoresBr_recordFault _)
  | _ => exact h.map (F := (·.busRead _)) fun _ _ => rfl

theorem sameButUnwritten.idleWrite {write : State → State} (hw : sameButUnwritten (write s) (write s')) :
    sameButUnwritten (s.idleWrite write) (s'.idleWrite write) := by
  by_cases hf : s.flight = none
  · rw [State.idleWrite_idle write hf, State.idleWrite_idle write (h.flight_eq.trans hf)]
    exact hw
  · rw [State.idleWrite_busy write hf, State.idleWrite_busy write (h.flight_eq ▸ hf)]
    exact h.dropWrite

theorem sameButUnwritten.issue (c : Word) : sameAnswers (issue c s) (issue c s') := by
  cases hf : s.flight with
  | some f =>
    rw [issue_busy c hf, issue_busy c (h.flight_eq.trans hf)]
    exact h.dropWrite.next
  | none =>
    have hf' := h.flight_eq.trans hf
    simp only [Machine.issue, State.busy_eq_false.mpr hf, State.busy_eq_false.mpr hf', Bool.false_eq_true, if_false]
    cases decode c with
    | ok i =>
      simp only [exec_idle hf, exec_idle hf']
      exact (h.accept i).next
    | error e => exact (h.map (F := (·.acceptIllegal c)) fun _ _ => rfl).next

theorem sameButUnwritten.busWrite (tgt : Target) (d : Word) : sameAnswers (busWrite tgt d s) (busWrite tgt d s') := by
  cases tgt with
  | id | param | candcnt => exact h.next
  | ctrl => exact (h.map (ignoresBr_writeCtrl d)).next
  | status => exact (h.map (F := (·.writeStatus d)) fun _ _ => rfl).next
  | cmd => exact h.issue d
  | rounds => exact (h.idleWrite (h.map (F := fun s => { s with rounds := _ }) fun _ _ => rfl)).next
  | retry => exact (h.idleWrite (h.map (F := fun s => { s with retry := _ }) fun _ _ => rfl)).next
  | drawlim => exact (h.idleWrite (h.map (F := fun s => { s with drawlim := _ }) fun _ _ => rfl)).next
  | brWord r j => exact (h.idleWrite (h.writeWord r j d)).next

theorem sameButUnwritten.serve (a : Access) : sameAnswers (serve a s) (serve a s') := by
  cases ho : offsetOf s.cfg.base a.addr with
  | none =>
    rw [serve_outside ho, serve_outside (h.cfg_eq ▸ ho)]
    exact (h.map (F := fun s => { s with resp := none }) fun _ _ => rfl).next
  | some off =>
    cases ha : admitted s.cfg.ww off a.size with
    | none =>
      rw [serve_refused ho ha, serve_refused (h.cfg_eq ▸ ho) (h.cfg_eq ▸ ha)]
      exact ((h.map (F := (·.respondFree true)) fun _ _ => rfl).map (ignoresBr_recordFault _)).next
    | some tgt =>
      rw [serve_admitted ho ha, serve_admitted (h.cfg_eq ▸ ho) (h.cfg_eq ▸ ha)]
      split
      · exact (h.map (F := (·.respondFree false)) fun _ _ => rfl).busWrite tgt _
      · exact (h.busRead tgt).next

theorem sameButUnwritten.withTurns (ts : List Turn) : sameButUnwritten (s.withTurns ts) (s'.withTurns ts) :=
  h.map (F := (·.withTurns ts)) fun _ _ => rfl

/-- A hardware reset forgets the registers (R240). -/
theorem sameButUnwritten.hardReset : s'.hardReset = s.hardReset := by
  obtain ⟨b, rfl, -⟩ := sameButUnwritten_iff.mp h
  rfl

end

/-- Settles O52: by whose turn it is. -/
theorem unwrittenContentsAreInvisible : Obligations.UnwrittenContentsAreInvisible := by
  intro s s' h
  obtain hengine | ⟨a, rest, hhost⟩ | ⟨rest, hreset⟩ := turns_cases s
  · rw [step_engine hengine, step_engine (h.turns_eq ▸ hengine), h.turns_eq]
    exact (h.withTurns _).engineTurn
  · rw [step_host hhost, step_host (h.turns_eq.trans hhost)]
    exact (h.withTurns rest).serve a
  · rw [step_hardReset hreset, step_hardReset (h.turns_eq.trans hreset), (h.withTurns rest).hardReset]
    exact sameButUnwritten.next ⟨rfl, fun _ => rfl⟩

end Sys2Proof.Machine

/-! The control registers as the host reads and writes them (R30 to R39), and the hardware reset (R240). -/

namespace Sys2Proof.Machine

/-! Reads -/

/-- A bit as a field of width 1. -/
theorem ofBool_getLsbD {w : Nat} (x : BitVec w) (i : Nat) : BitVec.ofBool (x.getLsbD i) = x.extractLsb' i 1 := by
  apply BitVec.eq_of_getLsbD_eq
  intro j hj
  obtain rfl : j = 0 := by omega
  simp

/-- A word of two fields. -/
theorem append_fields {m n : Nat} {x : BitVec (m + n)} {hi : BitVec m} {lo : BitVec n}
    (hhi : x.extractLsb' n m = hi) (hlo : x.extractLsb' 0 n = lo) : hi ++ lo = x := by
  rw [← hhi, ← hlo, BitVec.extractLsb'_append_extractLsb'_eq_extractLsb' (by omega)]
  exact BitVec.extractLsb'_eq_self

/-- PARAM by its fields (R31). -/
theorem paramWord_eq {ww : Nat} {d : Word} (hww : d.extractLsb' 0 16 = BitVec.ofNat 16 ww)
    (h7 : d.extractLsb' 16 4 = 7) (h0 : d.extractLsb' 20 12 = 0) : paramWord ww = d := by
  refine append_fields (m := 16) (n := 16) ?_ hww
  rw [show 0#12 = _ from h0.symm, show 7#4 = _ from h7.symm]
  exact (BitVec.extractLsb'_append_extractLsb'_eq_extractLsb' (start₂ := 20) (len₁ := 4) (len₂ := 12) rfl).symm

/-- CTRL by its fields (R32). -/
theorem State.ctrlWord_eq {s : State} {d : Word} (hie : d.getLsbD 0 = s.ie) (h0 : d.extractLsb' 1 31 = 0) :
    s.ctrlWord = d :=
  append_fields (m := 31) (n := 1) h0 (by rw [← hie, ofBool_getLsbD])

/-- STATUS by its fields (R33). -/
theorem State.statusWord_eq {s : State} {d : Word} (hbusy : d.getLsbD 0 = s.busy) (hdone : d.getLsbD 1 = s.done)
    (hprime : d.getLsbD 2 = s.prime) (hovr : d.getLsbD 3 = s.ovr) (herr : d.extractLsb' 4 4 = s.err.code)
    (h0 : d.extractLsb' 8 24 = 0) : s.statusWord = d := by
  rw [State.statusWord, ← hbusy, ← hdone, ← hprime, ← hovr, ← herr, show 0#24 = _ from h0.symm]
  simp only [ofBool_getLsbD]
  rw [BitVec.extractLsb'_append_extractLsb'_eq_extractLsb' (start₂ := 8) (start₁ := 4) rfl,
    BitVec.extractLsb'_append_extractLsb'_eq_extractLsb' (start₂ := 4) (start₁ := 3) rfl,
    BitVec.extractLsb'_append_extractLsb'_eq_extractLsb' (start₂ := 3) (start₁ := 2) rfl,
    BitVec.extractLsb'_append_extractLsb'_eq_extractLsb' (start₂ := 2) (start₁ := 1) rfl,
    BitVec.extractLsb'_append_extractLsb'_eq_extractLsb' (start₂ := 1) (start₁ := 0) rfl]
  exact BitVec.extractLsb'_eq_self

/-- A 16-bit field below zeros (R35). -/
theorem setWidth_eq_of_fields {x : BitVec 16} {d : Word} (hx : d.extractLsb' 0 16 = x) (h0 : d.extractLsb' 16 16 = 0) :
    x.setWidth 32 = d := by
  rw [← append_fields (m := 16) (n := 16) h0 hx]
  exact BitVec.setWidth_eq_append (by omega)

/-- A read of a register whose answer is `d` leaves the block and the fault record as they are (R67). -/
theorem step_controlRead {s : State} {off : Nat} {d : Word} {rest : List Turn} {tgt : Target}
    (hturns : s.turns = hostRead s off :: rest) (hoff : off < 0x4000) (hadm : admitted s.cfg.ww off 4 = some tgt)
    (hread : (s.withTurns rest).busRead tgt = (s.withTurns rest).respond d) :
    ∃ t, step s = .next t ∧ t.resp = some { rdata := d, err := false } ∧ sameBlock s t ∧ t.fault = s.fault :=
  ⟨_, (step_read hturns hoff hadm).trans (congrArg _ hread), rfl, by simp [sameBlock], rfl⟩

/-- Settles O12: the answer to each read has the fields of the register. -/
theorem controlReads : Obligations.ControlReads := by
  intro s off d rest hturns hval
  rcases hval with ⟨rfl, rfl⟩ | ⟨rfl, hww, h7, h0⟩ | ⟨rfl, hie, h0⟩ | ⟨rfl, hbusy, hdone, hprime, hovr, herr, h0⟩ |
    ⟨rfl, rfl⟩ | ⟨rfl, hrounds, h0⟩ | ⟨rfl, rfl⟩ | ⟨rfl, rfl⟩ | ⟨rfl, rfl⟩
  · exact step_controlRead (tgt := .id) hturns (by decide) rfl rfl
  · exact step_controlRead (tgt := .param) hturns (by decide) rfl (congrArg (State.respond _) (paramWord_eq hww h7 h0))
  · exact step_controlRead (tgt := .ctrl) hturns (by decide) rfl (congrArg (State.respond _) (State.ctrlWord_eq hie h0))
  · exact step_controlRead (tgt := .status) hturns (by decide) rfl
      (congrArg (State.respond _) (State.statusWord_eq hbusy hdone hprime hovr herr h0))
  · exact step_controlRead (tgt := .cmd) hturns (by decide) rfl rfl
  · exact step_controlRead (tgt := .rounds) hturns (by decide) rfl (congrArg (State.respond _) (setWidth_eq_of_fields hrounds h0))
  · exact step_controlRead (tgt := .retry) hturns (by decide) rfl rfl
  · exact step_controlRead (tgt := .drawlim) hturns (by decide) rfl rfl
  · exact step_controlRead (tgt := .candcnt) hturns (by decide) rfl rfl

/-! Writes -/

/-- A write of a register of the map is that target's write, the step's answer named. -/
theorem busWrite_of_step {s t : State} {off : Nat} {d : Word} {rest : List Turn} (tgt : Target)
    (hturns : s.turns = hostWrite s off d :: rest) (hoff : off < 0x4000) (hadm : admitted s.cfg.ww off 4 = some tgt)
    (hstep : step s = .next t) : busWrite tgt d ((s.withTurns rest).respondFree false) = .next t :=
  (step_write hturns hoff hadm).symm.trans hstep

/-- While idle a write of a limit acts. -/
theorem limitWrite_of_step {s t : State} {off : Nat} {d : Word} {rest : List Turn} {write : State → State} (tgt : Target)
    (hturns : s.turns = hostWrite s off d :: rest) (hoff : off < 0x4000) (hadm : admitted s.cfg.ww off 4 = some tgt)
    (hstep : step s = .next t) (hidle : s.flight = none)
    (hwrite : ∀ u, busWrite tgt d u = .next (u.idleWrite write)) : t = write ((s.withTurns rest).respondFree false) := by
  have h := (hwrite _).symm.trans (busWrite_of_step tgt hturns hoff hadm hstep)
  exact (Host.Outcome.next.inj h).symm.trans (State.idleWrite_idle write hidle)

/-- Settles O13: register by register. -/
theorem controlWrites : Obligations.ControlWrites := by
  intro s t off d rest hturns hstep
  refine ⟨?_, ?_, ?_, ?_, ?_⟩
  · rintro rfl hidle
    obtain rfl := limitWrite_of_step .rounds hturns (by decide) rfl hstep hidle fun _ => rfl
    exact ⟨BitVec.setWidth_eq_extractLsb' (x := d) (by decide), by simp [sameBlock], rfl⟩
  · rintro rfl hidle
    obtain rfl := limitWrite_of_step .retry hturns (by decide) rfl hstep hidle fun _ => rfl
    exact ⟨rfl, by simp [sameBlock], rfl⟩
  · rintro rfl hidle
    obtain rfl := limitWrite_of_step .drawlim hturns (by decide) rfl hstep hidle fun _ => rfl
    exact ⟨rfl, by simp [sameBlock], rfl⟩
  · rintro rfl h2 h1
    obtain rfl := Host.Outcome.next.inj (busWrite_of_step .ctrl hturns (by decide) rfl hstep)
    rw [State.writeCtrl_ie_only h2 h1]
    exact ⟨rfl, by simp [sameBlock], rfl⟩
  · rintro (rfl | rfl | rfl)
    · obtain rfl := Host.Outcome.next.inj (busWrite_of_step .id hturns (by decide) rfl hstep)
      exact ⟨by simp [sameBlock], rfl⟩
    · obtain rfl := Host.Outcome.next.inj (busWrite_of_step .param hturns (by decide) rfl hstep)
      exact ⟨by simp [sameBlock], rfl⟩
    · obtain rfl := Host.Outcome.next.inj (busWrite_of_step .candcnt hturns (by decide) rfl hstep)
      exact ⟨by simp [sameBlock], rfl⟩

/-- Settles O8: the write reaches `issue`, which decodes the word. -/
theorem commandWriteRunsTheDecodedCommand : Obligations.CommandWriteRunsTheDecodedCommand := by
  intro s c rest hturns hidle
  have hstep : step s = issue c ((s.withTurns rest).respondFree false) :=
    step_write (t := .cmd) hturns (by decide) rfl
  have hbusy : ((s.withTurns rest).respondFree false).busy = false := State.busy_eq_false.mpr hidle
  refine ⟨fun i hi => ?_, fun e he => ?_⟩
  · rw [hstep]
    simp only [issue, hbusy, hi, Bool.false_eq_true, if_false]
  · rw [hstep]
    simp only [issue, hbusy, he, Bool.false_eq_true, if_false]
    exact congrArg Host.Outcome.next (by simp [State.acceptIllegal, State.complete, State.beginAccept, hidle])

/-! Hardware reset -/

theorem State.reg_hardReset (s : State) (r : Reg) : s.hardReset.reg r = List.replicate s.cfg.ww ⟨0, false⟩ := by
  simp [State.reg, Vector.get_eq_getElem]

/-- Settles O21: the reset state, with every word unwritten. -/
theorem hardwareResetActs : Obligations.HardwareResetActs := by
  intro s rest hturns
  refine ⟨_, step_hardReset hturns, by simp [sameBlock, State.resetOf], fun r => ?_, rfl, rfl, rfl, rfl, rfl⟩
  rw [State.reg_hardReset]
  exact ⟨List.length_replicate, fun w hw => by rw [List.eq_of_mem_replicate hw]⟩

end Sys2Proof.Machine

/-! Commands: what an accept step answers (R24, R47), the frames (R97), MODEXP from issue to result (R160, R162), PGEN's
candidates (R133) and the draw ceiling 0 (R37). -/

namespace Sys2Proof.Machine

/-! Accept steps -/

/-- The word that the check of R47 names is an unwritten word of a source. -/
theorem State.firstUnwritten_spec {s : State} {rs : List Reg} {r : Reg} {j : Nat}
    (h : s.firstUnwritten rs = some (r, j)) : r ∈ rs ∧ j < (s.reg r).length ∧ (s.word r j).wr = false := by
  induction rs with
  | nil => cases h
  | cons r' rs ih =>
    rw [State.firstUnwritten] at h
    cases hu : unwrittenAt (s.reg r') with
    | none =>
      rw [hu] at h
      obtain ⟨hmem, hword⟩ := ih h
      exact ⟨List.mem_cons_of_mem _ hmem, hword⟩
    | some k =>
      rw [hu] at h
      obtain ⟨rfl, rfl⟩ : r' = r ∧ k = j := by simpa using h
      obtain ⟨hlt, hwr, -⟩ := List.findIdx?_eq_some_iff_getElem.mp hu
      refine ⟨List.mem_cons_self .., hlt, ?_⟩
      rw [State.word, List.getD_eq_getElem _ _ hlt]
      simpa using hwr

/-- A source is unwritten exactly where the check of R47 names a word. -/
theorem not_sourcesWritten_of_firstUnwritten {s : State} {i : Instr} {x : Reg × Nat}
    (h : s.firstUnwritten (sourcesOf i) = some x) : ¬ sourcesWritten s i := fun hw => by
  rw [State.firstUnwritten_eq_none.mpr hw] at h
  cases h

/-- Settles O22: of the ends of an accept step the record of an unwritten word is left. -/
theorem unwrittenSourceStartsNothing : Obligations.UnwrittenSourceStartsNothing := by
  intro s i hidle hwf hunwritten
  obtain ⟨hill, -⟩ | ⟨-, r, j, hfirst, ha⟩ | ⟨-, hnone, -⟩ := s.accept_cases i (startOf i)
  · simp [hwf] at hill
  · obtain ⟨hmem, hlt, hwr⟩ := State.firstUnwritten_spec hfirst
    refine ⟨_, r, j, (exec_idle hidle i).trans (congrArg _ ha), hmem, hlt, hwr, ?_⟩
    simp [hidle, sameRegsBut, sameDraws, sameControl]
  · exact absurd (State.firstUnwritten_eq_none.mp hnone) hunwritten

/-- Settles O28: the three ends of an accept step. -/
theorem acceptStartsOrCompletes : Obligations.AcceptStartsOrCompletes := by
  intro s t i hidle hexec
  obtain rfl := Host.Outcome.next.inj ((exec_idle hidle i).symm.trans hexec)
  obtain ⟨e, he, ha⟩ | ⟨r, j, hwf, hfirst, ha⟩ | ⟨f, hf, -, -, ha⟩ := accept_start_cases s i <;> rw [ha]
  · exact ⟨rfl, rfl, .inr (.inl ⟨rfl, rfl, he⟩)⟩
  · refine ⟨by simp, by simp, .inr (.inr ?_)⟩
    exact ⟨by simp [hidle], by simp, by simp, hwf, by simp, not_sourcesWritten_of_firstUnwritten hfirst⟩
  · exact ⟨rfl, rfl, .inl ⟨f, rfl, hf, rfl, rfl⟩⟩

/-! Frames -/

/-- Settles O48: the third of exec's answers. -/
theorem execWhileAnotherRunsIsDropped : Obligations.ExecWhileAnotherRunsIsDropped := by
  intro s i f hf hne
  obtain ⟨hidle, -⟩ | ⟨f', hf', hi, -⟩ | ⟨-, -, -, h⟩ := exec_next i s
  · simp [hf] at hidle
  · obtain rfl : f = f' := Option.some.inj (hf.symm.trans hf')
    exact absurd hi hne
  · exact h

theorem AcceptStep.commandFrame {s t : State} (h : AcceptStep s t) (hidle : s.flight = none) (i : Instr) :
    commandFrame i s t :=
  ⟨sameRegsBut_of_br h.br _, h.control, fun _ => sameRegsBut_of_br h.br _, fun _ => h.ovr,
    fun hbusy => absurd hidle hbusy⟩

theorem EngineStep.commandFrame {f : InFlight} {s t : State} (h : EngineStep f s t) (hf : s.flight = some f) :
    commandFrame f.instr s t := by
  refine ⟨h.regs, h.control, fun hor => ?_, fun _ => h.ovr, fun _ => ⟨h.readBack, h.fault⟩⟩
  obtain ⟨-, -, -, hbr, -⟩ | ⟨-, -, herr | hbr, -⟩ := h.flight
  · exact sameRegsBut_of_br hbr _
  · simp [hf, herr] at hor
  · exact sameRegsBut_of_br hbr _

theorem commandFrame_dropWrite {s : State} {f : InFlight} {i : Instr} (hf : s.flight = some f) (hne : f.instr ≠ i) :
    commandFrame i s s.dropWrite := by
  refine ⟨fun r _ => rfl, by simp [sameControl], fun _ r _ => rfl, fun hor => ?_, fun _ => ⟨rfl, rfl⟩⟩
  simp [hf, hne] at hor

/-- The frame of every command, at accept, in flight and at a dropped issue. -/
theorem exec_commandFrame {s t : State} {i : Instr} (h : exec i s = .next t) : commandFrame i s t := by
  obtain ⟨hidle, he⟩ | ⟨f, hf, rfl, he⟩ | ⟨f, hf, hne, he⟩ := exec_next i s <;>
    obtain rfl := Host.Outcome.next.inj (he.symm.trans h)
  · exact (accept_acceptStep s i).commandFrame hidle i
  · exact (advanceOf_engineStep f s).commandFrame hf
  · exact commandFrame_dropWrite hf hne

/-- MODEXP, MODMUL and EGCD touch neither CANDCNT nor the entropy port. -/
theorem exec_candcnt_draws {s t : State} {i : Instr} (hi : ¬ primality i) (h : exec i s = .next t) :
    t.candcnt = s.candcnt ∧ sameDraws s t := by
  obtain ⟨-, he⟩ | ⟨f, -, rfl, he⟩ | ⟨f, -, -, he⟩ := exec_next i s <;>
    obtain rfl := Host.Outcome.next.inj (he.symm.trans h)
  · exact ⟨(accept_acceptStep s i).candcnt, (accept_acceptStep s i).draws⟩
  · have hstep := advanceOf_engineStep f s
    refine ⟨not_not.mp fun hne => hi (.inr (hstep.candcnt hne).2), ?_⟩
    exact hstep.draws.resolve_right fun hdraw => hi hdraw.1
  · exact ⟨rfl, rfl, rfl⟩

/-- Settles O44: neither command draws. -/
theorem frameOfModexpAndModmul : Obligations.FrameOfModexpAndModmul := by
  rintro s t i rd rs1 rs2 rs3 (rfl | rfl) h
  · exact ⟨exec_commandFrame h, exec_candcnt_draws (by simp [primality]) h⟩
  · exact ⟨exec_commandFrame h, exec_candcnt_draws (by simp [primality]) h⟩

/-- Settles O45: EGCD does not draw. -/
theorem frameOfEgcd : Obligations.FrameOfEgcd := by
  intro s t rd rd2 rd3 rs1 rs2 sgn h
  exact ⟨exec_commandFrame h, exec_candcnt_draws (by simp [primality]) h⟩

/-! MODEXP -/

/-- MODEXP's completion leaves the exact power in BR[RD] (R162). -/
theorem uval_finishModexp {s : State} (rd : Reg) (b e : Nat) {m : Nat} (hm : 0 < m) (hlt : m < 2 ^ s.cfg.w) :
    (finishModexp rd b e m s).uval rd = b ^ e % m := by
  have hres : powMod b e m < 2 ^ s.cfg.w := by
    rw [powMod_eq]
    exact (Nat.mod_lt _ hm).trans hlt
  calc (finishModexp rd b e m s).uval rd
      = (s.writeBig rd (encU s.cfg.ww (powMod b e m))).uval rd := State.uval_congr rfl
    _ = powMod b e m := by rw [State.uval_writeBig_self, ofWords_encU hres]
    _ = b ^ e % m := powMod_eq b e m

/-- Settles O30: the accept step latches the operands, and the completion writes their power. -/
theorem modexpFromIssueToResult : Obligations.ModexpFromIssueToResult := by
  intro s rd rs1 rs2 rs3 hinv hidle hwritten hm
  refine ⟨_, _, (exec_idle hidle _).trans (congrArg _ ((State.accept_written _ rfl hwritten).trans (if_neg hm))),
    exec_own (f := .modexp rd rs1 rs2 rs3 (s.uval rs1) (s.uval rs2) (s.uval rs3)) rfl, ?_, fun r hr => ?_, rfl, rfl, rfl, rfl⟩
  · exact uval_finishModexp rd _ _ (Nat.pos_of_ne_zero hm) (State.uval_lt (hinv.2.1 rs3))
  · exact (State.reg_writeBig ..).trans (if_neg hr)

/-! PGEN's candidates and the draw ceiling 0 -/

theorem toNat_candWord {n : Nat} (h : n < 2 ^ 32) : (candWord n).toNat = n := by
  rw [candWord, BitVec.toNat_ofNat, Nat.mod_eq_of_lt h]

theorem toNat_candWord_le {s : State} {cand : Nat} (hle : cand ≤ s.retry.toNat) : (candWord cand).toNat = cand :=
  toNat_candWord (hle.trans_lt s.retry.isLt)

/-- A count below RETRY fits CANDCNT, and so does the next one (R210). -/
theorem toNat_candWord_succ {s : State} {cand : Nat} (hle : cand ≤ s.retry.toNat) (hne : cand ≠ s.retry.toNat) :
    (candWord (cand + 1)).toNat = cand + 1 :=
  toNat_candWord (by have := s.retry.isLt; omega)

/-- Settles O41: by what the step's draw gives. -/
theorem pgenCandidateStepBranches : Obligations.PgenCandidateStepBranches := by
  intro s rd bits cand hinv hf
  obtain ⟨-, -, -, -, -, -, hlow, -, hcand, -⟩ := hinv.of_flight hf
  obtain ⟨hceil, ha⟩ | ⟨hne, hfail, ha⟩ | ⟨hne, r, hr, ⟨hlim, ha⟩ | ⟨hlim, ha⟩⟩ := advanceCandidate_cases rd bits cand s <;>
    refine ⟨_, (exec_own hf).trans (congrArg _ ha), sameRegsBut_of_br rfl _, ?_, ?_⟩
  · exact fun _ => ⟨⟨rfl, rfl, rfl, rfl⟩, toNat_candWord_le hcand, rfl, rfl⟩
  · exact fun hne => absurd hceil hne
  · exact fun hceil => absurd hceil hne
  · refine fun _ => ⟨rfl, fun _ => ⟨⟨rfl, rfl, rfl, rfl⟩, toNat_candWord_succ hcand hne⟩, fun r hr => ?_⟩
    simp [hfail] at hr
  · exact fun hceil => absurd hceil hne
  · refine fun _ => ⟨rfl, fun hfail => by simp [hr] at hfail, fun r' _ => ⟨fun _ => ?_, fun h => absurd hlim h⟩⟩
    exact ⟨⟨rfl, rfl, rfl, rfl⟩, toNat_candWord_succ hcand hne⟩
  · exact fun hceil => absurd hceil hne
  · refine fun _ => ⟨rfl, fun hfail => by simp [hr] at hfail, fun r' hr' => ⟨fun h => absurd h hlim, fun _ => ?_⟩⟩
    obtain rfl : r = r' := Option.some.inj (hr.symm.trans hr')
    have hrange : r ≤ 2 ^ bits.toNat - 1 := (State.draw_mem (Nat.zero_le _) hr).2
    exact ⟨candidateOf bits.toNat r, rfl, rfl, rfl, candidateOf_spec (by omega) hrange⟩

/-- With DRAWLIM = 0 a test under way is at its ceiling (R125). -/
theorem testStep_of_drawlim_zero {s : State} {p : TestProgress} (h0 : s.drawlim = 0)
    (hok : p.ok s.rounds.toNat s.drawlim.toNat) : testStep p s = (.exhausted, s) := by
  obtain ⟨-, -, -, hdraws, -⟩ := hok
  have hzero : s.drawlim.toNat = 0 := by rw [h0]; rfl
  obtain ⟨-, h⟩ | ⟨hne, -⟩ | ⟨hne, -⟩ := testStep_cases p s
  · exact h
  · omega
  · omega

theorem advanceCandidate_at_retry {s : State} {cand : Nat} (rd : Reg) (bits : BitVec 16) (h : cand = s.retry.toNat) :
    advanceCandidate rd bits cand s = s.completePgen cand .exhausted false := by
  obtain ⟨-, ha⟩ | ⟨hne, -⟩ | ⟨hne, -⟩ := advanceCandidate_cases rd bits cand s
  · exact ha
  · exact absurd h hne
  · exact absurd h hne

/-- With DRAWLIM = 0 the step that draws a candidate ends the command, by the draw's failure or by the ceiling (R37). -/
theorem advanceCandidate_of_drawlim_zero {s : State} {cand : Nat} (rd : Reg) (bits : BitVec 16) (h0 : s.drawlim = 0)
    (hne : cand ≠ s.retry.toNat) :
    advanceCandidate rd bits cand s = s.countDraw.completePgen (cand + 1)
      (if (s.draw 0 (2 ^ bits.toNat - 1)).1 = none then .entropy else .exhausted) false := by
  obtain ⟨hceil, -⟩ | ⟨-, hfail, ha⟩ | ⟨-, r, hr, ⟨-, ha⟩ | ⟨hlim, -⟩⟩ := advanceCandidate_cases rd bits cand s
  · exact absurd hceil hne
  · rw [ha, if_pos hfail]
  · rw [ha, if_neg (by simp [hr])]
  · exact absurd h0 hlim

/-- Settles O57: the test is at its ceiling, and a candidate's step ends with it. -/
theorem drawlimZeroExhausts : Obligations.DrawlimZeroExhausts := by
  intro s f hinv h0 hf hprim
  obtain ⟨-, -, -, -, -, hok⟩ := hinv.of_flight hf
  cases f with
  | modexp | modmul | egcd => simp [InFlight.instr] at hprim
  | ptest rs1 p =>
    have ha : advanceOf (.ptest rs1 p) s = s.complete .exhausted false := by
      rw [advanceOf, advancePtest, testStep_of_drawlim_zero h0 hok.1]
    refine ⟨_, (exec_own hf).trans (congrArg _ ha), sameRegsBut_of_br rfl _, nofun, fun _ => ?_⟩
    exact ⟨⟨rfl, rfl, rfl, rfl⟩, ⟨rfl, rfl⟩, nofun⟩
  | pgen rd bits cand phase =>
    obtain ⟨-, -, -, hcand, hphase⟩ := hok
    cases phase with
    | testing p =>
      obtain ⟨-, hokp, -⟩ := hphase
      have ha : advanceOf (.pgen rd bits cand (.testing p)) s = s.completePgen cand .exhausted false := by
        rw [advanceOf, advancePgen, testStep_of_drawlim_zero h0 hokp]
      refine ⟨_, (exec_own hf).trans (congrArg _ ha), sameRegsBut_of_br rfl _, nofun, fun _ => ?_⟩
      refine ⟨⟨rfl, rfl, rfl, rfl⟩, ⟨rfl, rfl⟩, ?_⟩
      rintro _ _ _ _ ⟨⟩
      exact toNat_candWord_le hcand
    | needCandidate =>
      by_cases hceil : cand = s.retry.toNat
      · refine ⟨_, (exec_own hf).trans (congrArg _ (advanceCandidate_at_retry rd bits hceil)), sameRegsBut_of_br rfl _, ?_,
          fun _ => ⟨⟨rfl, rfl, rfl, rfl⟩, ⟨rfl, rfl⟩, ?_⟩⟩
        · rintro _ _ _ ⟨⟩ hne
          exact absurd hceil hne
        · rintro _ _ _ _ ⟨⟩
          exact toNat_candWord_le hcand
      · refine ⟨_, (exec_own hf).trans (congrArg _ (advanceCandidate_of_drawlim_zero rd bits h0 hceil)),
          sameRegsBut_of_br rfl _, ?_, fun hall => absurd (hall rd bits cand rfl) hceil⟩
        rintro _ _ _ ⟨⟩ -
        exact ⟨rfl, toNat_candWord_succ hcand hceil, rfl, rfl, rfl, rfl⟩

end Sys2Proof.Machine

/-! The bus and the big registers: one word written or read (R64, R65), the writes dropped while BUSY (R66), and reads
without a side effect (R72). -/

namespace Sys2Proof.Machine

/-! Offsets -/

/-- Every listed offset lies in the window (R29). -/
theorem admitted_lt {ww off size : Nat} {tgt : Target} (hww : ww ≤ 256) (h : admitted ww off size = some tgt) :
    off < 0x4000 := by
  obtain ⟨-, -, htgt⟩ := admitted_eq_some h
  rcases htgt with h | h | h | h | h | h | h | h | h | ⟨r, j, hj, -, rfl⟩
  rotate_left 9
  · have hr : r.toNat < 8 := r.isLt
    omega
  all_goals omega

theorem admitted_brOffset {ww j : Nat} (r : Reg) (hj : j < ww) (hww : ww ≤ 256) :
    admitted ww (brOffset r j) 4 = some (.brWord r j) :=
  admitted_brWord r hj hww

theorem brOffset_lt {ww j : Nat} (r : Reg) (hj : j < ww) (hww : ww ≤ 256) : brOffset r j < 0x4000 :=
  admitted_lt hww (admitted_brOffset r hj hww)

/-! One word written -/

theorem State.word_writeWord_self {s : State} {r : Reg} {j : Nat} (d : Word) (hj : j < (s.reg r).length) :
    (s.writeWord r j d).word r j = { data := d, wr := true } := by
  rw [State.word, State.reg_writeWord, if_pos rfl, List.getD_eq_getElem _ _ (by rwa [List.length_set]),
    List.getElem_set_self]

theorem State.word_writeWord_ne {s : State} {r r' : Reg} {j k : Nat} (d : Word) (hne : (r', k) ≠ (r, j)) :
    (s.writeWord r j d).word r' k = s.word r' k := by
  rw [State.word, State.word, State.reg_writeWord]
  by_cases hr : r' = r
  · have hk : j ≠ k := fun hjk => hne (by rw [hr, hjk])
    rw [if_pos hr, hr, List.getD_eq_getElem?_getD, List.getElem?_set_ne hk, ← List.getD_eq_getElem?_getD]
  · rw [if_neg hr]

theorem State.length_reg_writeWord (s : State) (r : Reg) (j : Nat) (d : Word) (r' : Reg) :
    ((s.writeWord r j d).reg r').length = (s.reg r').length := by
  rw [State.reg_writeWord]
  split
  · next hr => rw [List.length_set, hr]
  · rfl

/-- A host write of a BR word while idle (R65). -/
theorem step_writeWord {s : State} {r : Reg} {j : Nat} {d : Word} {rest : List Turn} (hww : s.cfg.ww ≤ 256)
    (hj : j < s.cfg.ww) (hidle : s.flight = none) (hturns : s.turns = hostWrite s (brOffset r j) d :: rest) :
    step s = .next (((s.withTurns rest).respondFree false).writeWord r j d) :=
  (step_write hturns (brOffset_lt r hj hww) (admitted_brOffset r hj hww)).trans
    (congrArg Host.Outcome.next (State.idleWrite_idle _ hidle))

/-- Settles O10: the step is `writeWord`. -/
theorem hostWriteStoresOneWord : Obligations.HostWriteStoresOneWord := by
  intro s r j d rest hinv hj hidle hturns
  obtain ⟨⟨-, hww, -⟩, hlen⟩ := hinv.shaped
  have hlt : j < (s.reg r).length := by rwa [hlen r]
  refine ⟨_, step_writeWord hww hj hidle hturns, State.word_writeWord_self d hlt,
    fun r' k hne => State.word_writeWord_ne d hne, fun r' => State.length_reg_writeWord _ r j d r', ?_, rfl⟩
  simp [sameBlock]

/-! Reads -/

theorem State.busRead_written {s : State} {r : Reg} {j : Nat} (h : (s.word r j).wr = true) :
    s.busRead (.brWord r j) = s.respond (s.word r j).data :=
  if_pos h

theorem State.busRead_unwritten {s : State} {r : Reg} {j : Nat} (h : (s.word r j).wr = false) :
    s.busRead (.brWord r j) = (s.respondFree false).recordFault (.unwrittenRead r j) :=
  if_neg (by simp [h])

/-- A host read of a BR word, idle or BUSY (R64). -/
theorem step_readWord {s : State} {r : Reg} {j : Nat} {rest : List Turn} (hww : s.cfg.ww ≤ 256) (hj : j < s.cfg.ww)
    (hturns : s.turns = hostRead s (brOffset r j) :: rest) :
    step s = .next ((s.withTurns rest).busRead (.brWord r j)) :=
  step_read hturns (brOffset_lt r hj hww) (admitted_brOffset r hj hww)

/-- Settles O11: by the mark of the word. -/
theorem hostReadGivesTheWord : Obligations.HostReadGivesTheWord := by
  intro s r j rest hwf hj hturns
  obtain ⟨-, hww, -⟩ := hwf
  obtain ⟨hblock, -⟩ := (s.withTurns rest).sameBlock_busRead (.brWord r j)
  refine ⟨_, step_readWord hww hj hturns, hblock, fun hwr => ?_, fun hwr hnone => ?_⟩
  · rw [State.busRead_written (s := s.withTurns rest) hwr]
    exact ⟨rfl, rfl⟩
  · rw [State.busRead_unwritten (s := s.withTurns rest) hwr]
    simp [hnone]

/-- A read makes no draw (R82). -/
theorem State.sameDraws_busRead (s : State) (tgt : Target) : sameDraws s (s.busRead tgt) := by
  cases tgt with
  | brWord r j =>
    cases hwr : (s.word r j).wr with
    | true => rw [State.busRead_written hwr]; exact ⟨rfl, rfl⟩
    | false => rw [State.busRead_unwritten hwr]; simp [sameDraws]
  | _ => exact ⟨rfl, rfl⟩

/-- Settles O17: a read outside the window, a refused one, and an admitted one. -/
theorem readsHaveNoSideEffect : Obligations.ReadsHaveNoSideEffect := by
  intro s t a rest hturns hread hstep
  obtain ⟨-, he⟩ | ⟨off, -, -, -, he⟩ | ⟨off, tgt, -, -, -, hwrite, -⟩ | ⟨off, tgt, -, -, -, -, he⟩ :=
    step_host_cases hturns
  · obtain rfl := Host.Outcome.next.inj (he.symm.trans hstep)
    exact ⟨by simp [sameBlock], rfl, rfl⟩
  · obtain rfl := Host.Outcome.next.inj (he.symm.trans hstep)
    simp [sameBlock, sameDraws]
  · simp [hread] at hwrite
  · obtain rfl := Host.Outcome.next.inj (he.symm.trans hstep)
    obtain ⟨hblock, -⟩ := (s.withTurns rest).sameBlock_busRead tgt
    exact ⟨hblock, (s.withTurns rest).sameDraws_busRead tgt⟩

/-! Writes while BUSY -/

/-- The targets whose writes are dropped while BUSY (R66). -/
inductive Target.DroppedWhileBusy : Target → Prop where
  | cmd : DroppedWhileBusy .cmd
  | rounds : DroppedWhileBusy .rounds
  | retry : DroppedWhileBusy .retry
  | drawlim : DroppedWhileBusy .drawlim
  | brWord (r : Reg) (j : Nat) : DroppedWhileBusy (.brWord r j)

theorem busWrite_dropped {s : State} {tgt : Target} (d : Word) (htgt : tgt.DroppedWhileBusy) (hbusy : s.flight ≠ none) :
    busWrite tgt d s = .next s.dropWrite := by
  cases htgt with
  | cmd =>
    obtain ⟨f, hf⟩ := Option.ne_none_iff_exists'.mp hbusy
    exact issue_busy d hf
  | rounds | retry | drawlim | brWord => exact congrArg Host.Outcome.next (State.idleWrite_busy _ hbusy)

/-- The offsets of the targets whose writes are dropped while BUSY (R29, R66). -/
theorem admitted_droppedWhileBusy {ww off : Nat} (hww : ww ≤ 256)
    (hoff : off = 0x010 ∨ off = 0x014 ∨ off = 0x018 ∨ off = 0x01C ∨ ∃ r, ∃ j < ww, off = brOffset r j) :
    ∃ tgt, admitted ww off 4 = some tgt ∧ tgt.DroppedWhileBusy := by
  obtain rfl | rfl | rfl | rfl | ⟨r, j, hj, rfl⟩ := hoff
  · exact ⟨_, rfl, .cmd⟩
  · exact ⟨_, rfl, .rounds⟩
  · exact ⟨_, rfl, .retry⟩
  · exact ⟨_, rfl, .drawlim⟩
  · exact ⟨_, admitted_brOffset r hj hww, .brWord r j⟩

/-- Settles O15: dropped writes, CTRL, STATUS, read-only registers and reads in turn. -/
theorem busyWritesAreDropped : Obligations.BusyWritesAreDropped := by
  rintro s t off d rest ⟨-, hww, -⟩ hbusy hstep
  refine ⟨fun hturns => ⟨fun hoff => ?_, ?_, ?_, fun hoff => ?_⟩, fun hturns => ⟨?_, fun tgt hadm => ?_⟩⟩
  · obtain ⟨tgt, hadm, htgt⟩ := admitted_droppedWhileBusy hww hoff
    have hwrite := busWrite_of_step tgt hturns (admitted_lt hww hadm) hadm hstep
    obtain rfl := Host.Outcome.next.inj (hwrite.symm.trans (busWrite_dropped d htgt hbusy))
    exact ⟨rfl, by simp [sameBlock], rfl⟩
  · rintro rfl
    exact Host.Outcome.next.inj (hstep.symm.trans (step_writeCtrl hturns))
  · rintro rfl
    exact Host.Outcome.next.inj (hstep.symm.trans (step_writeStatus hturns))
  · obtain ⟨-, -, -, -, hreadOnly⟩ := controlWrites s t off d rest hturns hstep
    exact hreadOnly hoff
  · obtain ⟨hblock, -⟩ := readsHaveNoSideEffect s t _ rest hturns rfl hstep
    exact hblock
  · exact Host.Outcome.next.inj (hstep.symm.trans (step_read hturns (admitted_lt hww hadm) hadm))

end Sys2Proof.Machine

/-! Encoding (R91 to R99): the decoder as a reading of the fields followed by the row's tests, the encoder as its inverse,
and `legal` of R95. -/

namespace Sys2Proof

open Sys2Proof.Laws

/-! Words of a row (R99) -/

/-- A word of a row has the pattern's bit at every bit of the mask. -/
theorem getLsbD_of_row {c mask pat : Word} {i : Nat} (h : c &&& mask = pat) (hmask : mask.getLsbD i = true) :
    c.getLsbD i = pat.getLsbD i := by
  rw [← h, BitVec.getLsbD_and, hmask, Bool.and_true]

/-- A word of a row has the pattern's field wherever the mask covers the field. -/
theorem extractLsb'_of_row {c mask pat : Word} {lo n : Nat} (h : c &&& mask = pat)
    (hmask : mask.extractLsb' lo n = BitVec.allOnes n) : c.extractLsb' lo n = pat.extractLsb' lo n := by
  rw [← h, BitVec.extractLsb'_and, hmask, BitVec.and_allOnes]

/-- A word of a row has 0 at the bits that the mask covers and the pattern leaves 0. -/
theorem and_eq_zero_of_row {c mask pat reserved : Word} (h : c &&& mask = pat) (hmask : mask &&& reserved = reserved)
    (hpat : pat &&& reserved = 0) : c &&& reserved = 0 := by
  rw [← hmask, ← BitVec.and_assoc, h, hpat]

/-- Every mask of R99 covers the opcode, so a word is in no row of another opcode. -/
theorem row_false_of_opcode {c mask pat : Word} {op : Nat} (hop : (c.extractLsb' 0 4).toNat = op)
    (hmask : mask.extractLsb' 0 4 = BitVec.allOnes 4) (hpat : (pat.extractLsb' 0 4).toNat ≠ op) :
    (c &&& mask = pat) = False :=
  eq_false fun h => hpat (by rw [← hop, extractLsb'_of_row h hmask])

/-! The fields of a word in each format (R91, R92) -/

/-- The fields of a format R word read back. -/
theorem formatR_fields (op : BitVec 4) (rd rs1 rs2 rs3 rd2 rd3 : Reg) (sgn : Bool) :
    regField 4 (formatR op rd rs1 rs2 rs3 rd2 rd3 sgn) = rd ∧ regField 8 (formatR op rd rs1 rs2 rs3 rd2 rd3 sgn) = rs1 ∧
      regField 12 (formatR op rd rs1 rs2 rs3 rd2 rd3 sgn) = rs2 ∧
      regField 16 (formatR op rd rs1 rs2 rs3 rd2 rd3 sgn) = rs3 ∧
      regField 20 (formatR op rd rs1 rs2 rs3 rd2 rd3 sgn) = rd2 ∧
      regField 24 (formatR op rd rs1 rs2 rs3 rd2 rd3 sgn) = rd3 ∧
      (formatR op rd rs1 rs2 rs3 rd2 rd3 sgn).getLsbD 28 = sgn := by
  refine ⟨?_, ?_, ?_, ?_, ?_, ?_, formatR_getLsbD _ _ _ _ _ _ _ _ (by decide)⟩
  all_goals
    apply BitVec.eq_of_getLsbD_eq
    intro i hi
    rw [regField_getLsbD _ _ hi, formatR_getLsbD _ _ _ _ _ _ _ _ (by omega)]
    interval_cases i <;> rfl

/-- The fields of a format I word read back. -/
theorem formatI_fields (op : BitVec 4) (rd : Reg) (imm : BitVec 16) :
    regField 4 (formatI op rd imm) = rd ∧ (formatI op rd imm).extractLsb' 16 16 = imm := by
  constructor <;> apply BitVec.eq_of_getLsbD_eq <;> intro i hi
  · rw [regField_getLsbD _ _ hi, formatI_getLsbD _ _ _ (by omega)]
    interval_cases i <;> rfl
  · rw [BitVec.getLsbD_extractLsb', formatI_getLsbD _ _ _ (by omega)]
    interval_cases i <;> rfl

/-- A word with format R's reserved bits 0 is the format R word of its fields. -/
theorem formatR_of_fields {c : Word} (h : c &&& 0xE8888880 = 0) :
    formatR (c.extractLsb' 0 4) (regField 4 c) (regField 8 c) (regField 12 c) (regField 16 c) (regField 20 c)
      (regField 24 c) (c.getLsbD 28) = c := by
  apply BitVec.eq_of_getLsbD_eq
  intro i hi
  rw [formatR_getLsbD _ _ _ _ _ _ _ _ hi]
  have hres := getLsbD_of_row (i := i) h
  interval_cases i <;> simp_all [regField]

/-- A word with format I's reserved bits 0 is the format I word of its fields. -/
theorem formatI_of_fields {c : Word} (h : c &&& 0x0000FF80 = 0) :
    formatI (c.extractLsb' 0 4) (regField 4 c) (c.extractLsb' 16 16) = c := by
  apply BitVec.eq_of_getLsbD_eq
  intro i hi
  rw [formatI_getLsbD _ _ _ hi]
  have hres := getLsbD_of_row (i := i) h
  interval_cases i <;> simp_all [regField]

/-! Decoding a command's word -/

/-- The word of a command is in the command's row, with the row's opcode. -/
theorem encode_row (i : Instr) : EncodesItsRow.Statement i := by
  cases i with
  | modexp => exact EncodesItsRow.modexp ..
  | modmul => exact EncodesItsRow.modmul ..
  | egcd => exact EncodesItsRow.egcd ..
  | ptest => exact EncodesItsRow.ptest ..
  | pgen => exact EncodesItsRow.pgen ..

/-- The decoder puts the word of a command to the command's own row, with the command's fields. -/
theorem decode_encode_eq_rowInstr (i : Instr) :
    decode (encode i) = rowInstr (EncodesItsRow.row i).1 (EncodesItsRow.row i).2 (encode i) i := by
  obtain ⟨-, hop⟩ := encode_row i
  unfold decode
  rw [hop]
  cases i with
  | modexp | modmul | egcd | ptest => simp only [EncodesItsRow.row, encode, formatR_fields]; rfl
  | pgen => simp only [EncodesItsRow.row, encode, formatI_fields]; rfl

theorem decode_encode (i : Instr) :
    decode (encode i) = if i.wellFormed then .ok i else .error .aliasedDestinations := by
  obtain ⟨hrow, -⟩ := encode_row i
  rw [decode_encode_eq_rowInstr]
  cases hwf : i.wellFormed <;> simp [rowInstr, hrow, hwf]

/-- Settles O2: the word is in its row, and the fields read back. -/
theorem decodeOfEncode : Obligations.DecodeOfEncode := fun i =>
  ⟨fun hwf => by rw [decode_encode, if_pos hwf], fun hwf => by simp [decode_encode, hwf]⟩

/-! The word of a decoded command -/

theorem rowInstr_ok {mask pat c : Word} {i j : Instr} (h : rowInstr mask pat c i = .ok j) :
    c &&& mask = pat ∧ i.wellFormed = true ∧ i = j := by
  simpa [matchesRow] using rowInstr_eq_ok.mp h

/-- Settles O3: a word of a row has 0 in the reserved bits and the unused fields, where the format writes 0. -/
theorem encodeOfDecode : Obligations.EncodeOfDecode := by
  intro c i h
  unfold decode at h
  split at h
  case h_1 | h_2 | h_3 | h_4 =>
    obtain ⟨hrow, hwf, rfl⟩ := rowInstr_ok h
    refine ⟨hwf, Eq.trans ?_ (formatR_of_fields (and_eq_zero_of_row hrow (by decide) (by decide)))⟩
    simp (disch := decide) only [encode, regField, extractLsb'_of_row hrow, getLsbD_of_row hrow]
    rfl
  case h_5 =>
    obtain ⟨hrow, hwf, rfl⟩ := rowInstr_ok h
    refine ⟨hwf, Eq.trans ?_ (formatI_of_fields (and_eq_zero_of_row hrow (by decide) (by decide)))⟩
    simp (disch := decide) only [encode, regField, extractLsb'_of_row hrow]
    rfl
  case h_6 => cases h

/-! Legal words -/

theorem exists_rowInstr_ok {mask pat c : Word} {i : Instr} :
    (∃ j, rowInstr mask pat c i = .ok j) ↔ c &&& mask = pat ∧ i.wellFormed = true := by
  simp [rowInstr_eq_ok, matchesRow]

/-- EGCD's condition, as R95 writes it. -/
theorem wellFormed_egcd (rd rd2 rd3 rs1 rs2 : Reg) (sgn : Bool) :
    (Instr.egcd rd rd2 rd3 rs1 rs2 sgn).wellFormed = true ↔ rd ≠ rd2 ∧ rd ≠ rd3 ∧ rd2 ≠ rd3 := by
  simp only [Instr.wellFormed, Bool.and_eq_true, bne_iff_ne, and_assoc]

/-- `legal` of R95 is what the decoder tests, opcode by opcode. -/
theorem legalWord_iff_decode (c : Word) : Machine.legalWord c ↔ ∃ i, decode c = .ok i := by
  unfold Machine.legalWord decode
  generalize (c.extractLsb' 0 4).toNat = op
  match op with
  | 1 | 2 | 4 | 5 => exact (exists_rowInstr_ok.trans (and_iff_left rfl)).symm
  | 3 => exact (exists_rowInstr_ok.trans (and_congr_right' (wellFormed_egcd ..))).symm
  | 0 | _ + 6 => exact ⟨False.elim, fun ⟨_, h⟩ => nomatch h⟩

/-- A word is in at most the row of its opcode, so R95's case list says that it is in exactly one row. -/
theorem legalWord_iff_oneRow (c : Word) :
    Machine.legalWord c ↔ (Machine.opcodeRows.filter fun row => c &&& row.1 == row.2).length = 1 ∧
      (c &&& 0xE88F888F#32 = 3 → c.extractLsb' 4 3 ≠ c.extractLsb' 20 3 ∧ c.extractLsb' 4 3 ≠ c.extractLsb' 24 3 ∧
        c.extractLsb' 20 3 ≠ c.extractLsb' 24 3) := by
  rw [← List.countP_eq_length_filter]
  unfold Machine.legalWord
  generalize hop : (c.extractLsb' 0 4).toNat = op
  split
  case h_1 | h_2 | h_4 | h_5 =>
    simp (disch := decide) [Machine.opcodeRows, List.countP_cons, row_false_of_opcode hop]
  case h_3 =>
    simpa (disch := decide) [Machine.opcodeRows, List.countP_cons, row_false_of_opcode hop] using .inl
  case h_6 h1 h2 h3 h4 h5 =>
    simp [Machine.opcodeRows, row_false_of_opcode hop, Ne.symm h1, Ne.symm h2, Ne.symm h3, Ne.symm h4, Ne.symm h5]

end Sys2Proof

namespace Sys2Proof.Machine

/-- The accept step of an illegal word: the read-back, and a completion with ERR_ILLEGAL (R47, R98). -/
theorem State.acceptIllegal_idle {s : State} (hidle : s.flight = none) (c : Word) :
    s.acceptIllegal c = { s with cmdLast := c, done := true, err := .illegal, prime := false } := by
  simp [State.acceptIllegal, State.complete, State.beginAccept, hidle]

/-- Settles O4: the case list against the decoder, against the rows, and the accept step of any other word. -/
theorem legalWordsDecode : Obligations.LegalWordsDecode := by
  intro c
  refine ⟨legalWord_iff_decode c, legalWord_iff_oneRow c, fun hill s hidle => ?_⟩
  obtain ⟨i, hi, -⟩ | ⟨e, -, hissue⟩ := issue_idle c hidle
  · exact absurd ((legalWord_iff_decode c).mpr ⟨i, hi⟩) hill
  · rw [hissue, State.acceptIllegal_idle hidle]

/-- Settles O1: the nine words, each decoded. -/
theorem workedEncodingsDecode : Obligations.WorkedEncodingsDecode := by
  unfold Obligations.WorkedEncodingsDecode
  decide

/-! The frames of PTEST and PGEN (R97): CANDCNT, the draws and BR[RD] -/

/-- CANDCNT changes in no command but a PGEN, and only where it ends (R38, R136). -/
theorem exec_candcnt {s t : State} {i : Instr} (h : exec i s = .next t) (hne : t.candcnt ≠ s.candcnt) :
    s.flight ≠ none ∧ t.flight = none ∧ ∃ rd bits, i = .pgen rd bits := by
  obtain ⟨-, he⟩ | ⟨f, hf, rfl, he⟩ | ⟨f, -, -, he⟩ := exec_next i s <;>
    obtain rfl := Host.Outcome.next.inj (he.symm.trans h)
  · exact absurd (accept_acceptStep s i).candcnt hne
  · exact ⟨by simp [hf], (advanceOf_engineStep f s).candcnt hne⟩
  · exact absurd rfl hne

/-- A step of a command makes at most one draw, and only in flight (R123, R133). -/
theorem exec_draws {s t : State} {i : Instr} (h : exec i s = .next t) :
    sameDraws s t ∨ s.flight ≠ none ∧ t.drawIdx = s.drawIdx + 1 ∧ t.entropy = s.entropy.tail := by
  obtain ⟨-, he⟩ | ⟨f, hf, rfl, he⟩ | ⟨f, -, -, he⟩ := exec_next i s <;>
    obtain rfl := Host.Outcome.next.inj (he.symm.trans h)
  · exact .inl (accept_acceptStep s i).draws
  · exact (advanceOf_engineStep f s).draws.imp_right fun ⟨_, hdraw⟩ => ⟨by simp [hf], hdraw⟩
  · exact .inl ⟨rfl, rfl⟩

/-- Settles O46: CANDCNT is PGEN's. -/
theorem frameOfPtest : Obligations.FrameOfPtest := by
  intro s t rs1 h
  refine ⟨exec_commandFrame h, not_not.mp fun hne => ?_, exec_draws h⟩
  obtain ⟨-, -, rd, bits, hi⟩ := exec_candcnt h hne
  cases hi

/-- PGEN's engine step that draws a candidate writes no register (R133). -/
theorem advanceCandidate_br (rd : Reg) (bits : BitVec 16) (cand : Nat) (s : State) :
    (advanceCandidate rd bits cand s).br = s.br := by
  obtain ⟨-, h⟩ | ⟨-, -, h⟩ | ⟨-, r, -, ⟨-, h⟩ | ⟨-, h⟩⟩ := advanceCandidate_cases rd bits cand s <;> rw [h] <;> rfl

/-- PGEN's test step writes a register only where it completes with PRIME set (R134, R135). -/
theorem advancePgen_br (rd : Reg) (bits : BitVec 16) (cand : Nat) (p : TestProgress) (s : State) :
    (advancePgen rd bits cand p s).br = s.br ∨ completed (advancePgen rd bits cand p s) .noError true := by
  unfold advancePgen
  obtain ⟨-, h⟩ | ⟨-, -, h⟩ | ⟨-, a, -, h⟩ := testStep_cases p s <;> rw [h]
  · exact .inl rfl
  · exact .inl rfl
  · cases judgeBase s.rounds.toNat p a with
    | passed => exact .inr ⟨rfl, rfl, rfl, rfl⟩
    | exhausted | entropyFail | failed | more => exact .inl rfl

/-- PGEN writes a register only where it completes with PRIME set (R130). -/
theorem exec_pgen_br {s t : State} {rd : Reg} {bits : BitVec 16} (h : exec (.pgen rd bits) s = .next t) :
    t.br = s.br ∨ completed t .noError true := by
  obtain ⟨-, he⟩ | ⟨f, -, hi, he⟩ | ⟨f, -, -, he⟩ := exec_next (.pgen rd bits) s <;>
    obtain rfl := Host.Outcome.next.inj (he.symm.trans h)
  · exact .inl (accept_acceptStep s _).br
  · cases f with
    | pgen rd' bits' cand phase =>
      cases phase with
      | needCandidate => exact .inl (advanceCandidate_br ..)
      | testing p => exact advancePgen_br ..
    | modexp | modmul | egcd | ptest => cases hi
  · exact .inl rfl

/-- Settles O47: a register changes with PRIME set, CANDCNT where the command ends. -/
theorem frameOfPgen : Obligations.FrameOfPgen := by
  intro s t rd bits h
  refine ⟨exec_commandFrame h, fun hne => ?_, fun hne => ?_, exec_draws h⟩
  · exact (exec_pgen_br h).resolve_left fun hbr => hne (State.reg_congr hbr rd)
  · obtain ⟨hbusy, hend, -⟩ := exec_candcnt h hne
    exact ⟨hbusy, hend⟩

end Sys2Proof.Machine

/-! Primality (R120 to R137, R256): the test step by the draw it makes, PTEST and PGEN by the test step, and the number
of engine steps that a command in flight has left. -/

namespace Sys2Proof.Machine

/-! The test step (R123), by the draw it makes -/

section
variable {s : State} {p : TestProgress} {a rounds : Nat}

theorem testStep_at_ceiling (hlim : p.draws = s.drawlim.toNat) : testStep p s = (.exhausted, s) := if_pos hlim

theorem testStep_of_fail (hlim : p.draws ≠ s.drawlim.toNat) (hd : (s.draw 2 (p.n - 1)).1 = none) :
    testStep p s = (.entropyFail, s.countDraw) := by
  have hdraw : s.draw 2 (p.n - 1) = (none, s.countDraw) := Prod.ext hd (s.draw_state ..)
  rw [testStep, if_neg hlim, hdraw]

theorem testStep_of_base (hlim : p.draws ≠ s.drawlim.toNat) (hd : (s.draw 2 (p.n - 1)).1 = some a) :
    testStep p s = (judgeBase s.rounds.toNat p a, s.countDraw) := by
  have hdraw : s.draw 2 (p.n - 1) = (some a, s.countDraw) := Prod.ext hd (s.draw_state ..)
  rw [testStep, if_neg hlim, hdraw]

theorem judgeBase_skipped (hskip : a ∈ p.seen ∧ a % 2 = 1) :
    judgeBase rounds p a = .more { p with draws := p.draws + 1 } := if_pos hskip

theorem judgeBase_failing (hskip : ¬ (a ∈ p.seen ∧ a % 2 = 1)) (hpow : a ^ (p.n - 1) % p.n ≠ 1) :
    judgeBase rounds p a = .failed := by
  rw [judgeBase, if_neg hskip, powMod_eq, if_pos hpow]

theorem judgeBase_lastRound (hskip : ¬ (a ∈ p.seen ∧ a % 2 = 1)) (hpow : a ^ (p.n - 1) % p.n = 1)
    (hround : p.rounds + 1 = rounds) : judgeBase rounds p a = .passed := by
  rw [judgeBase, if_neg hskip, powMod_eq, if_neg (not_not.mpr hpow), if_pos hround]

theorem judgeBase_nextRound (hskip : ¬ (a ∈ p.seen ∧ a % 2 = 1)) (hpow : a ^ (p.n - 1) % p.n = 1)
    (hround : p.rounds + 1 ≠ rounds) : judgeBase rounds p a =
      .more { p with draws := p.draws + 1, seen := insertBase a p.seen, rounds := p.rounds + 1 } := by
  rw [judgeBase, if_neg hskip, powMod_eq, if_neg (not_not.mpr hpow), if_neg hround]

end

theorem mem_insertBase {x a : Nat} {seen : List Nat} : x ∈ insertBase a seen ↔ x = a ∨ x ∈ seen := by
  rw [insertBase_eq_insert, List.mem_insert_iff]

/-- What a test step can do, and what its verdict says of the base it drew. -/
inductive TestStepsTo (s : State) (p : TestProgress) : TestEnd × State → Prop where
  | ceiling : TestStepsTo s p (.exhausted, s)
  | drawFails : TestStepsTo s p (.entropyFail, s.countDraw)
  | baseFails {a : Nat} (hlim : p.draws ≠ s.drawlim.toNat) (hd : (s.draw 2 (p.n - 1)).1 = some a)
      (hpow : a ^ (p.n - 1) % p.n ≠ 1) : TestStepsTo s p (.failed, s.countDraw)
  | lastRound {a : Nat} (hd : (s.draw 2 (p.n - 1)).1 = some a) (hpow : a ^ (p.n - 1) % p.n = 1)
      (hround : p.rounds + 1 = s.rounds.toNat) : TestStepsTo s p (.passed, s.countDraw)
  | goesOn {p' : TestProgress} (hlim : p.draws ≠ s.drawlim.toNat) (hdraws : p'.draws = p.draws + 1) :
      TestStepsTo s p (.more p', s.countDraw)

theorem testStep_stepsTo (p : TestProgress) (s : State) : TestStepsTo s p (testStep p s) := by
  obtain ⟨-, h⟩ | ⟨-, -, h⟩ | ⟨hlim, a, hd, h⟩ := testStep_cases p s <;> rw [h]
  · exact .ceiling
  · exact .drawFails
  · obtain ⟨-, -, hj⟩ | ⟨-, hpow, hj⟩ | ⟨-, hpow, hround, hj⟩ | ⟨-, -, -, hj⟩ := judgeBase_cases s.rounds.toNat p a <;>
      rw [hj]
    · exact .goesOn hlim rfl
    · exact .baseFails hlim hd hpow
    · exact .lastRound hd hpow hround
    · exact .goesOn hlim rfl

/-! The engine steps left (R256) -/

/-- An upper bound on the engine steps that a command in flight has left, with the limits `retry` and `drawlim`: one for
a command without draws, a draw each and the ceiling's step for a test, and for each candidate still to come its own
step and its draws. -/
def stepsLeft (retry drawlim : Nat) : InFlight → Nat
  | .ptest _ p => (drawlim - p.draws) + 1
  | .pgen _ _ cand .needCandidate => (retry - cand) * (drawlim + 1) + 1
  | .pgen _ _ cand (.testing p) => (drawlim - p.draws) + (retry - cand) * (drawlim + 1) + 1
  | _ => 1

theorem stepsLeft_pos (retry drawlim : Nat) (f : InFlight) : 0 < stepsLeft retry drawlim f := by
  unfold stepsLeft
  split <;> omega

/-- A PTEST that goes on has made a draw. -/
theorem advancePtest_stepsLeft {s : State} {rs1 : Reg} {p : TestProgress} {f' : InFlight} (retry : Nat)
    (hle : p.draws ≤ s.drawlim.toNat) (hf' : (advancePtest rs1 p s).flight = some f') :
    stepsLeft retry s.drawlim.toNat f' < stepsLeft retry s.drawlim.toNat (.ptest rs1 p) := by
  unfold advancePtest at hf'
  have hstep := testStep_stepsTo p s
  generalize testStep p s = v at hstep hf'
  cases hstep with
  | ceiling | drawFails | baseFails | lastRound => cases hf'
  | goesOn hlim hdraws =>
    cases hf'
    simp only [stepsLeft]
    omega

/-- A PGEN that goes on from a test step has made a draw, or is back for the next candidate. -/
theorem advancePgen_stepsLeft {s : State} {rd : Reg} {bits : BitVec 16} {cand : Nat} {p : TestProgress} {f' : InFlight}
    (hle : p.draws ≤ s.drawlim.toNat) (hf' : (advancePgen rd bits cand p s).flight = some f') :
    stepsLeft s.retry.toNat s.drawlim.toNat f' <
      stepsLeft s.retry.toNat s.drawlim.toNat (.pgen rd bits cand (.testing p)) := by
  unfold advancePgen at hf'
  have hstep := testStep_stepsTo p s
  generalize testStep p s = v at hstep hf'
  cases hstep with
  | ceiling | drawFails | lastRound => cases hf'
  | baseFails hlim | goesOn hlim =>
    cases hf'
    simp only [stepsLeft]
    omega

/-- A PGEN that goes on from a candidate's step has counted a candidate, below RETRY. -/
theorem advanceCandidate_stepsLeft {s : State} {rd : Reg} {bits : BitVec 16} {cand : Nat} {f' : InFlight}
    (hle : cand ≤ s.retry.toNat) (hf' : (advanceCandidate rd bits cand s).flight = some f') :
    stepsLeft s.retry.toNat s.drawlim.toNat f' <
      stepsLeft s.retry.toNat s.drawlim.toNat (.pgen rd bits cand .needCandidate) := by
  obtain ⟨-, h⟩ | ⟨-, -, h⟩ | ⟨hne, r, -, ⟨-, h⟩ | ⟨-, h⟩⟩ := advanceCandidate_cases rd bits cand s <;>
    rw [h] at hf' <;> cases hf'
  have hone : s.retry.toNat - cand = (s.retry.toNat - (cand + 1)) + 1 := by omega
  simp only [stepsLeft, TestProgress.fresh, hone, Nat.succ_mul]
  omega

/-- An engine step of a command in flight ends it, or leaves fewer steps to go. -/
theorem advanceOf_stepsLeft {s : State} {f f' : InFlight} (hinv : s.Inv) (hf : s.flight = some f)
    (hf' : (advanceOf f s).flight = some f') :
    stepsLeft s.retry.toNat s.drawlim.toNat f' < stepsLeft s.retry.toNat s.drawlim.toNat f := by
  obtain ⟨-, -, -, -, -, hok⟩ := hinv.of_flight hf
  cases f with
  | modexp | modmul => cases hf'
  | egcd rd rd2 rd3 rs1 rs2 sgn a b =>
    obtain ⟨-, -, -, h⟩ | ⟨-, h⟩ := finishEgcd_cases rd rd2 rd3 sgn a b s <;> rw [advanceOf, h] at hf' <;> cases hf'
  | ptest rs1 p =>
    obtain ⟨⟨-, -, -, hdraws, -⟩, -⟩ := hok
    exact advancePtest_stepsLeft _ hdraws hf'
  | pgen rd bits cand phase =>
    obtain ⟨-, -, -, hcand, hphase⟩ := hok
    cases phase with
    | needCandidate => exact advanceCandidate_stepsLeft hcand hf'
    | testing p =>
      obtain ⟨-, ⟨-, -, -, hdraws, -⟩, -⟩ := hphase
      exact advancePgen_stepsLeft hdraws hf'

/-- The command in flight completes within `n` steps of the machine. -/
def State.endsWithin (s : State) (n : Nat) : Prop :=
  ∃ k ≤ n, ∃ t, core.run k s = .next t ∧ t.flight = none ∧ t.done = true

theorem core_run_succ {s t : State} (hstep : step s = .next t) (k : Nat) : core.run (k + 1) s = core.run k t := by
  have hcore : core.step s = .next t := hstep
  simp only [Host.Core.run, hcore]

theorem State.endsWithin_of_completed {s : State} (hidle : s.flight = none) (hdone : s.done = true) (n : Nat) :
    s.endsWithin n :=
  ⟨0, Nat.zero_le n, s, rfl, hidle, hdone⟩

theorem State.endsWithin_of_step {s t : State} {n : Nat} (hstep : step s = .next t) (h : t.endsWithin n) :
    s.endsWithin (n + 1) := by
  obtain ⟨k, hk, u, hrun, hend⟩ := h
  exact ⟨k + 1, Nat.succ_le_succ hk, u, (core_run_succ hstep k).trans hrun, hend⟩

/-- With no model fault recorded and no turn named, the machine's step is that of the command in flight (R48). -/
theorem step_of_flight {s : State} {f : InFlight} (hfault : s.fault = none) (hturns : s.turns = [])
    (hf : s.flight = some f) : step s = .next (advanceOf f s) :=
  ((engineTurnRunsTheCommandInFlight s s (.inl ⟨hturns, rfl⟩)).1 f hfault hf).trans (exec_own hf)

/-- A command in flight, left to the engine with no model fault recorded, completes within the steps it has left. -/
theorem endsWithin_of_stepsLeft_le {s : State} {f : InFlight} {n : Nat} (hinv : s.Inv) (hfault : s.fault = none)
    (hturns : s.turns = []) (hf : s.flight = some f) (hn : stepsLeft s.retry.toNat s.drawlim.toNat f ≤ n) :
    s.endsWithin n := by
  induction n generalizing s f with
  | zero =>
    have := stepsLeft_pos s.retry.toNat s.drawlim.toNat f
    omega
  | succ n ih =>
    refine State.endsWithin_of_step (step_of_flight hfault hturns hf) ?_
    have hkeeps := advanceOf_engineStep f s
    obtain ⟨-, -, -, hretry, hdrawlim, -, hturns', -⟩ := hkeeps.control
    obtain ⟨f', -, hf', -⟩ | ⟨hidle, hdone, -⟩ := hkeeps.flight
    · have hless := advanceOf_stepsLeft hinv hf hf'
      refine ih (hinv.advanceOf hf) (hkeeps.fault.trans hfault) (hturns'.trans hturns) hf' ?_
      rw [hretry, hdrawlim]
      omega
    · exact State.endsWithin_of_completed hidle hdone n

/-- Settles O39: a test has at most a draw for each of DRAWLIM, and the ceiling's step. -/
theorem ptestTerminates : Obligations.PtestTerminates := by
  intro s rs1 p hinv hfault hturns hf
  refine endsWithin_of_stepsLeft_le hinv hfault hturns hf ?_
  simp only [stepsLeft]
  omega

/-- Settles O40: a test under way has counted its candidate, so its draws are among those of the RETRY candidates. -/
theorem pgenTerminates : Obligations.PgenTerminates := by
  intro s rd bits cand ph hinv hfault hturns hf
  refine endsWithin_of_stepsLeft_le hinv hfault hturns hf ?_
  obtain ⟨-, -, -, -, -, -, -, -, hcand, hphase⟩ := hinv.of_flight hf
  cases ph with
  | needCandidate =>
    have := Nat.mul_le_mul_right (s.drawlim.toNat + 1) (Nat.sub_le s.retry.toNat cand)
    simp only [stepsLeft]
    omega
  | testing p =>
    obtain ⟨hone, -⟩ := hphase
    have := Nat.mul_le_mul_right (s.drawlim.toNat + 1) (show s.retry.toNat - cand + 1 ≤ s.retry.toNat by omega)
    simp only [stepsLeft]
    rw [Nat.succ_mul] at this
    omega

/-! The accept checks (R121, R131) -/

/-- Settles O26: the sources are written, so the accept step is PTEST's own check. -/
theorem ptestAccepts : Obligations.PtestAccepts := by
  intro s rs1 hidle hwritten
  refine ⟨_, exec_idle hidle _, sameRegsBut_of_br (accept_acceptStep s _).br _, ?_⟩
  rw [State.accept_written _ rfl hwritten]
  refine ⟨fun hcheck => ?_, fun hcheck => ?_⟩
  · rw [show startOf (.ptest rs1) (s.beginAccept _) = _ from if_pos hcheck]
    exact ⟨rfl, rfl, rfl, rfl⟩
  · rw [show startOf (.ptest rs1) (s.beginAccept _) = _ from if_neg hcheck]
    exact ⟨rfl, rfl⟩

/-- Settles O27: PGEN has no source, so the accept step is its own check. -/
theorem pgenAccepts : Obligations.PgenAccepts := by
  intro s rd bits hidle
  refine ⟨_, exec_idle hidle _, sameRegsBut_of_br (accept_acceptStep s _).br _, (accept_acceptStep s _).candcnt, ?_⟩
  rw [State.accept_written _ rfl (by simp [sourcesOf])]
  refine ⟨fun hcheck => ?_, fun hcheck => ?_⟩
  · rw [show startOf (.pgen rd bits) (s.beginAccept _) = _ from if_pos hcheck]
    exact ⟨rfl, rfl, rfl, rfl⟩
  · rw [show startOf (.pgen rd bits) (s.beginAccept _) = _ from if_neg hcheck]
    exact ⟨rfl, rfl⟩

/-! Engine steps (R123 to R137) -/

/-- Settles O37: by the draw, and then by the base it gives. -/
theorem ptestStepBranches : Obligations.PtestStepBranches := by
  intro s rs1 p hf
  have hexec : exec (.ptest rs1) s = .next (advancePtest rs1 p s) := exec_own hf
  simp only [hexec, advancePtest]
  refine ⟨fun hlim => ?_, fun hlim => ⟨fun hd => ?_, fun a hd => ?_⟩⟩
  · rw [testStep_at_ceiling hlim]
    exact ⟨_, rfl, ⟨rfl, rfl, rfl, rfl⟩, rfl, rfl⟩
  · rw [testStep_of_fail hlim hd]
    exact ⟨_, rfl, rfl, rfl, rfl, rfl⟩
  · rw [testStep_of_base hlim hd]
    refine ⟨_, rfl, ?_, fun hskip => ?_,
      fun hskip => ⟨fun hpow => ?_, fun hpow => ⟨fun hround => ?_, fun hround => ?_⟩⟩⟩
    · cases judgeBase s.rounds.toNat p a <;> rfl
    · rw [judgeBase_skipped hskip]
      rfl
    · rw [judgeBase_failing hskip hpow]
      exact ⟨rfl, rfl, rfl, rfl⟩
    · rw [judgeBase_lastRound hskip hpow hround]
      exact ⟨rfl, rfl, rfl, rfl⟩
    · rw [judgeBase_nextRound hskip hpow hround]
      exact ⟨_, rfl, rfl, rfl, rfl, fun x => mem_insertBase⟩

/-- A base of the range of R123 passes for a prime: Fermat's little theorem. -/
theorem pow_sub_one_mod_of_prime {n a : Nat} (hn : n.Prime) (ha : 2 ≤ a ∧ a ≤ n - 1) : a ^ (n - 1) % n = 1 := by
  have hcop : a.Coprime n := (Nat.coprime_of_lt_prime (by omega) (by omega) hn).symm
  have hpow : a ^ (n - 1) % n = 1 % n := Nat.ModEq.pow_card_sub_one_eq_one hn hcop
  rw [hpow, Nat.mod_eq_of_lt hn.one_lt]

/-- Settles O38: a successful end is a verdict, and no base of a prime's range fails. -/
theorem ptestNeverRejectsAPrime : Obligations.PtestNeverRejectsAPrime := by
  intro s t rs1 p hinv hf hprime hexec hend herr
  obtain ⟨-, -, -, -, -, ⟨hn, -⟩, -⟩ := hinv.of_flight hf
  obtain rfl := Host.Outcome.next.inj ((exec_own hf).symm.trans hexec)
  simp only [advanceOf, advancePtest] at hend herr ⊢
  have hstep := testStep_stepsTo p s
  generalize testStep p s = v at hstep hend herr ⊢
  cases hstep with
  | ceiling | drawFails => cases herr
  | baseFails _ hd hpow => exact absurd (pow_sub_one_mod_of_prime hprime (State.draw_mem (by omega) hd)) hpow
  | lastRound => rfl
  | goesOn => cases hend

/-- A number of the register's size, written to BR[RD], is there in whole (R13, R23). -/
theorem State.writeBig_encU {s : State} (r : Reg) {z : Nat} (hz : z < 2 ^ s.cfg.w) :
    (s.writeBig r (encU s.cfg.ww z)).uval r = z ∧ wholeWritten (s.writeBig r (encU s.cfg.ww z)) r := by
  refine ⟨by rw [State.uval_writeBig_self, ofWords_encU hz], ?_⟩
  simp [wholeWritten, State.reg_writeBig]

@[simp] theorem State.uval_completePgen (s : State) (n : Nat) (e : ErrCode) (p : Bool) (r : Reg) :
    (s.completePgen n e p).uval r = s.uval r := rfl

/-- A candidate under test has at most BITS bits, and so fits a register (R131, R132). -/
theorem State.Inv.candidate_lt {s : State} {rd : Reg} {bits : BitVec 16} {cand : Nat} {p : TestProgress} (hinv : s.Inv)
    (hf : s.flight = some (.pgen rd bits cand (.testing p))) : p.n < 2 ^ s.cfg.w := by
  obtain ⟨-, -, -, -, -, -, -, hhigh, -, -, -, -, -, hlt⟩ := hinv.of_flight hf
  exact hlt.trans_le (Nat.pow_le_pow_right (by omega) hhigh)

/-- Settles O42: by the draw, and then by the base it gives. -/
theorem pgenTestStepBranches : Obligations.PgenTestStepBranches := by
  intro s rd bits cand p hinv hf
  obtain ⟨-, -, -, -, -, -, -, -, hcand, -⟩ := hinv.of_flight hf
  have hexec : exec (.pgen rd bits) s = .next (advancePgen rd bits cand p s) := exec_own hf
  refine ⟨_, hexec, ?_⟩
  simp only [advancePgen]
  refine ⟨fun hlim => ?_, fun hlim => ⟨fun hd => ?_, fun a hd => ?_⟩⟩
  · rw [testStep_at_ceiling hlim]
    exact ⟨⟨rfl, rfl, rfl, rfl⟩, toNat_candWord_le hcand, sameRegsBut_of_br rfl _⟩
  · rw [testStep_of_fail hlim hd]
    exact ⟨⟨rfl, rfl, rfl, rfl⟩, toNat_candWord_le hcand, sameRegsBut_of_br rfl _⟩
  · rw [testStep_of_base hlim hd]
    refine ⟨fun hskip => ?_, fun hskip => ⟨fun hpow => ?_, fun hpow => ⟨fun hround => ?_, fun hround => ?_⟩⟩⟩
    · rw [judgeBase_skipped hskip]
      exact ⟨rfl, sameRegsBut_of_br rfl _⟩
    · rw [judgeBase_failing hskip hpow]
      exact ⟨rfl, rfl, rfl, rfl, rfl, rfl, sameRegsBut_of_br rfl _⟩
    · rw [judgeBase_lastRound hskip hpow hround]
      obtain ⟨hval, hwhole⟩ := s.countDraw.writeBig_encU rd (hinv.candidate_lt hf)
      exact ⟨⟨rfl, rfl, rfl, rfl⟩, hval, hwhole, toNat_candWord_le hcand⟩
    · rw [judgeBase_nextRound hskip hpow hround]
      exact ⟨_, rfl, rfl, rfl, rfl, fun x => mem_insertBase, sameRegsBut_of_br rfl _⟩

/-- The step that draws a candidate never ends a PGEN without an error (R133). -/
theorem advanceCandidate_err {s : State} {rd : Reg} {bits : BitVec 16} {cand : Nat}
    (hend : (advanceCandidate rd bits cand s).flight = none) : (advanceCandidate rd bits cand s).err ≠ .noError := by
  obtain ⟨-, h⟩ | ⟨-, -, h⟩ | ⟨-, r, -, ⟨-, h⟩ | ⟨-, h⟩⟩ := advanceCandidate_cases rd bits cand s <;> rw [h] at hend ⊢
  · exact nofun
  · exact nofun
  · exact nofun
  · cases hend

/-- Settles O43: a PGEN succeeds with the last passing base of a test, whose value is the candidate. -/
theorem pgenResultHasTheBits : Obligations.PgenResultHasTheBits := by
  intro s t rd bits cand ph hinv hf hexec hend herr
  obtain ⟨-, -, -, -, -, -, -, -, -, hphase⟩ := hinv.of_flight hf
  obtain rfl := Host.Outcome.next.inj ((exec_own hf).symm.trans hexec)
  cases ph with
  | needCandidate => exact absurd herr (advanceCandidate_err hend)
  | testing p =>
    obtain ⟨-, -, hodd, hlow, hlt⟩ := hphase
    simp only [advanceOf, advancePgen] at hend herr ⊢
    have hstep := testStep_stepsTo p s
    generalize testStep p s = v at hstep hend herr ⊢
    cases hstep with
    | ceiling | drawFails => cases herr
    | baseFails | goesOn => cases hend
    | @lastRound a hd hpow hround =>
      have hval := (s.countDraw.writeBig_encU rd (hinv.candidate_lt hf)).1
      simp only [State.uval_completePgen, hval]
      exact ⟨rfl, hodd, hlow, hlt, p, a, rfl, rfl, hround, hd, hpow⟩

end Sys2Proof.Machine

/-! MODEXP and MODMUL (R160 to R170): the accept check of the modulus, and the result that the engine step writes. -/

namespace Sys2Proof.Machine

/-! The accept check (R161, R168) -/

/-- A command with written sources whose start is the modulus check (R161): ERR_MOD_ZERO, or `f` in flight. -/
theorem exec_modulusCheck {s : State} {i : Instr} {m : Reg} {f : InFlight} (hidle : s.flight = none)
    (hwf : i.wellFormed = true) (hwritten : sourcesWritten s i)
    (hstart : startOf i (s.beginAccept (encode i)) =
      if s.uval m = 0 then (s.beginAccept (encode i)).complete .modZero false else (s.beginAccept (encode i)).launch f) :
    ∃ t, exec i s = .next t ∧ sameRegsBut [] s t ∧ (s.uval m = 0 → completed t .modZero false) ∧
      (s.uval m ≠ 0 → t.busy = true ∧ t.flight = some f) := by
  refine ⟨_, exec_idle hidle i, sameRegsBut_of_br (accept_acceptStep s i).br _, ?_⟩
  rw [State.accept_written _ hwf hwritten, hstart]
  refine ⟨fun hzero => ?_, fun hpos => ?_⟩
  · rw [if_pos hzero]
    exact ⟨rfl, rfl, rfl, rfl⟩
  · rw [if_neg hpos]
    exact ⟨rfl, rfl⟩

/-- Settles O23: MODEXP's start is the modulus check. -/
theorem modexpAccepts : Obligations.ModexpAccepts := by
  intro s rd rs1 rs2 rs3 hidle hwritten
  exact exec_modulusCheck hidle rfl hwritten rfl

/-- Settles O24: MODMUL's start is the modulus check. -/
theorem modmulAccepts : Obligations.ModmulAccepts := by
  intro s rd rs1 rs2 rs3 hidle hwritten
  exact exec_modulusCheck hidle rfl hwritten rfl

/-! The result (R162, R168) -/

/-- A completion that writes a number of the register's size to BR[RD] leaves it there in whole (R23, R46). -/
theorem State.complete_writeBig_encU {s : State} (rd : Reg) {z : Nat} (hz : z < 2 ^ s.cfg.w) :
    ((s.writeBig rd (encU s.cfg.ww z)).complete .noError false).uval rd = z ∧
      wholeWritten ((s.writeBig rd (encU s.cfg.ww z)).complete .noError false) rd ∧
      completed ((s.writeBig rd (encU s.cfg.ww z)).complete .noError false) .noError false := by
  obtain ⟨hval, hwhole⟩ := s.writeBig_encU rd hz
  exact ⟨hval, hwhole, rfl, rfl, rfl, rfl⟩

/-- MODEXP's completion writes the exact power (R15, R162). -/
theorem finishModexp_eq (rd : Reg) (b e m : Nat) (s : State) :
    finishModexp rd b e m s = (s.writeBig rd (encU s.cfg.ww (b ^ e % m))).complete .noError false := by
  rw [finishModexp, powMod_eq]

/-- Settles O29: the power is below the modulus in flight, so it fits BR[RD]. -/
theorem modexpComputesThePower : Obligations.ModexpComputesThePower := by
  intro s rd rs1 rs2 rs3 b e m hinv hf
  obtain ⟨-, -, -, -, -, hm, -, -, hlt⟩ := hinv.of_flight hf
  have hres : b ^ e % m < m := Nat.mod_lt _ hm
  obtain ⟨hval, hwhole, hdone⟩ := s.complete_writeBig_encU rd (hres.trans hlt)
  exact ⟨_, (exec_own hf).trans (congrArg _ (finishModexp_eq ..)), hval, hval.trans_lt hres, hwhole, hdone⟩

/-- Settles O31: the two cases of the power. -/
theorem modexpSpecialCases : Obligations.ModexpSpecialCases := by
  intro s rd rs1 rs2 rs3 b e m hinv hf
  obtain ⟨t, hexec, hval, -, -, hdone⟩ := modexpComputesThePower s rd rs1 rs2 rs3 b e m hinv hf
  refine ⟨t, hexec, hdone, fun hone => ?_, fun hzero hgt => ?_⟩
  · rw [hval, hone, Nat.mod_one]
  · rw [hval, hzero, pow_zero, Nat.mod_eq_of_lt hgt]

/-- Settles O32: the residue is below the modulus in flight, so it fits BR[RD]. -/
theorem modmulComputesTheProduct : Obligations.ModmulComputesTheProduct := by
  intro s rd rs1 rs2 rs3 a b m hinv hf
  obtain ⟨-, -, -, -, -, hm, -, -, hlt⟩ := hinv.of_flight hf
  have hres : a * b % m < m := Nat.mod_lt _ hm
  exact ⟨_, exec_own hf, s.complete_writeBig_encU rd (hres.trans hlt)⟩

end Sys2Proof.Machine

/-! EGCD (R180 to R187): the accept step, `extendedGcd` as the one result of Euclid's run (R183), the completion that
writes it or answers ERR_RANGE (R185), and Bezout's identity and the gcd along the run (R186). -/

namespace Sys2Proof.Machine

/-! The accept step (R182) -/

/-- Settles O25: with the sources written, EGCD's start is its launch, whatever the operands are. -/
theorem egcdAccepts : Obligations.EgcdAccepts := by
  intro s rd rd2 rd3 rs1 rs2 sgn hidle hwf hwritten
  refine ⟨_, exec_idle hidle _, ?_⟩
  rw [State.accept_written _ hwf hwritten]
  exact ⟨rfl, sameRegsBut_of_br rfl _, rfl⟩

/-! Euclid's run (R183) -/

/-- A run whose divisor is 0 is at its end (R184 a). -/
theorem euclidRun_zero {a x₀ x y₀ y : Int} {res : Int × Int × Int} :
    EuclidRun a 0 x₀ x y₀ y res ↔ (a, x₀, y₀) = res := by
  constructor
  · rintro (_ | ⟨h0, -, -⟩)
    · rfl
    · exact absurd rfl h0
  · rintro rfl
    exact .stop ..

/-- A run whose divisor is not 0 takes one step, its remainder written as the truncating remainder (R184 b). -/
theorem euclidRun_of_ne_zero {a b x₀ x y₀ y : Int} {res : Int × Int × Int} (hb : b ≠ 0) :
    EuclidRun a b x₀ x y₀ y res ↔
      EuclidRun b (a.tmod b) x (x₀ - a.tdiv b * x) y (y₀ - a.tdiv b * y) res := by
  rw [Int.tmod_def, Int.mul_comm b]
  constructor
  · rintro (_ | ⟨-, rfl, h⟩)
    · exact absurd rfl hb
    · exact h
  · exact .step hb rfl

/-- With fuel enough the loop answers what the run gives, and nothing else. -/
theorem euclidRun_iff_egcdLoop {n : Nat} {a b x₀ x y₀ y : Int} {res : Int × Int × Int} (h : b.natAbs < n) :
    EuclidRun a b x₀ x y₀ y res ↔ egcdLoop n a b x₀ x y₀ y = res := by
  induction n generalizing a b x₀ x y₀ y with
  | zero => omega
  | succ n ih =>
    by_cases hb : b = 0
    · subst hb
      rw [euclidRun_zero, egcdLoop_zero]
    · have hlt := natAbs_tmod_lt a hb
      rw [euclidRun_of_ne_zero hb, egcdLoop_succ hb, ih (by omega)]

/-- `extendedGcd(a, b)` is the one result of Euclid's run on `(a, b)` (R183). -/
theorem euclidRun_iff_extendedGcd {a b : Int} {res : Int × Int × Int} :
    EuclidRun a b 1 0 0 1 res ↔ extendedGcd a b = res :=
  euclidRun_iff_egcdLoop (Nat.lt_succ_self _)

/-- R186 (a): each pair of coefficients of the run gives its remainder, and so does the last. -/
theorem EuclidRun.bezout {a b oldR r oldX x oldY y : Int} {res : Int × Int × Int}
    (h : EuclidRun oldR r oldX x oldY y res) (hold : a * oldX + b * oldY = oldR) (hnew : a * x + b * y = r) :
    a * res.2.1 + b * res.2.2 = res.1 := by
  induction h with
  | stop => exact hold
  | @step oldR r oldX x oldY y q _ _ _ _ ih =>
    refine ih hnew ?_
    calc a * (oldX - q * x) + b * (oldY - q * y)
        = (a * oldX + b * oldY) - q * (a * x + b * y) := by ring
      _ = oldR - q * r := by rw [hold, hnew]

/-- R186 (b): a step keeps the gcd of the two remainders, so the last one is it, up to its sign. -/
theorem EuclidRun.natAbs_eq_gcd {oldR r oldX x oldY y : Int} {res : Int × Int × Int}
    (h : EuclidRun oldR r oldX x oldY y res) : res.1.natAbs = Int.gcd oldR r := by
  induction h with
  | stop => exact (Int.gcd_zero_right _).symm
  | step _ _ _ ih => rw [ih, Int.gcd_sub_mul_right_right, Int.gcd_comm]

/-! The completion (R185) -/

/-- A register that holds the encoding of a number of its mode's range reads back as that number, and was written whole
(R13, R23). -/
theorem readBack_of_encoded {t : State} {r : Reg} {sgn : Bool} {z : Int} (hww : 1 ≤ t.cfg.ww)
    (hz : operandRange t.cfg.w sgn z)
    (hreg : t.reg r = (if sgn then encS t.cfg.ww z else encU t.cfg.ww z.toNat).map fun d => ⟨d, true⟩) :
    readBack t sgn r = z ∧ wholeWritten t r := by
  have huval : t.uval r = ofWords (if sgn then encS t.cfg.ww z else encU t.cfg.ww z.toNat) := by
    simp [State.uval, hreg, List.map_map, Function.comp_def]
  refine ⟨?_, ?_⟩
  · cases sgn with
    | true => exact (congrArg (svalOf _) huval).trans (svalOf_encS hww (fitsS_iff_operandRange.mpr hz))
    | false =>
      obtain ⟨hz0, hz1⟩ := hz
      have hlt : z.toNat < 2 ^ (32 * t.cfg.ww) := by
        zify
        rw [Int.toNat_of_nonneg hz0]
        exact Int.lt_of_le_sub_one hz1
      have hval : t.uval r = z.toNat := huval.trans (ofWords_encU hlt)
      rw [readBack, if_neg Bool.false_ne_true, hval, Int.toNat_of_nonneg hz0]
  · cases sgn <;> simp [wholeWritten, hreg]

/-- The check of R185 on the results of the loop. -/
theorem egcdFits_iff {w : Nat} {sgn : Bool} {g x y : Int} :
    egcdFits w sgn g x y ↔
      (if sgn then fitsS w g else fitsU w g) = true ∧ fitsS w x = true ∧ fitsS w y = true := by
  rw [fits_iff_operandRange, fitsS_iff_operandRange, fitsS_iff_operandRange, egcdFits]

/-- EGCD's completion with results that fit writes the three of them, in whole, and ends without an error. -/
theorem finishEgcd_of_fits {s : State} {rd rd2 rd3 : Reg} {sgn : Bool} {a b g x y : Int} (hww : 1 ≤ s.cfg.ww)
    (hne : rd ≠ rd2 ∧ rd ≠ rd3 ∧ rd2 ≠ rd3) (hres : extendedGcd a b = (g, x, y)) (hfits : egcdFits s.cfg.w sgn g x y) :
    ∃ t, finishEgcd rd rd2 rd3 sgn a b s = t ∧ (readBack t sgn rd = g ∧ wholeWritten t rd) ∧
      (t.sval rd2 = x ∧ wholeWritten t rd2) ∧ (t.sval rd3 = y ∧ wholeWritten t rd3) ∧ completed t .noError false := by
  obtain ⟨hne2, hne3, hne23⟩ := hne
  obtain ⟨-, -, -, h⟩ | ⟨hbad, -⟩ := finishEgcd_cases rd rd2 rd3 sgn a b s
  · obtain ⟨hg, hx, hy⟩ := hfits
    rw [hres] at h
    refine ⟨_, h, readBack_of_encoded hww hg ?_, readBack_of_encoded (sgn := true) hww hx ?_,
      readBack_of_encoded (sgn := true) hww hy ?_, rfl, rfl, rfl, rfl⟩
    · simp [State.reg_writeBig, hne2, hne3]
    · simp [State.reg_writeBig, hne23]
    · simp [State.reg_writeBig]
  · obtain ⟨hokg, hokx, hoky⟩ := egcdFits_iff.mp hfits
    rw [hres, hokg, hokx, hoky] at hbad
    simp at hbad

/-- EGCD's completion with results that do not all fit is ERR_RANGE alone. -/
theorem finishEgcd_of_not_fits {s : State} (rd rd2 rd3 : Reg) {sgn : Bool} {a b g x y : Int}
    (hres : extendedGcd a b = (g, x, y)) (hfits : ¬ egcdFits s.cfg.w sgn g x y) :
    finishEgcd rd rd2 rd3 sgn a b s = s.complete .range false := by
  obtain ⟨hg, hx, hy, -⟩ | ⟨-, h⟩ := finishEgcd_cases rd rd2 rd3 sgn a b s
  · rw [hres] at hg hx hy
    exact absurd (egcdFits_iff.mpr ⟨hg, hx, hy⟩) hfits
  · exact h

/-- Settles O33: the run's result is `extendedGcd`, and the completion is one of the two. -/
theorem egcdFollowsTheRecurrence : Obligations.EgcdFollowsTheRecurrence := by
  refine ⟨fun a b => ⟨_, _, _, euclidRun_iff_extendedGcd.mpr rfl⟩, ?_⟩
  intro s rd rd2 rd3 rs1 rs2 sgn a b g x y hf hrun
  have hres := euclidRun_iff_extendedGcd.mp hrun
  refine ⟨fun hinv hfits => ?_, fun hfits => ?_⟩
  · obtain ⟨-, -, -, -, hwf, -⟩ := hinv.of_flight hf
    obtain ⟨t, ht, ⟨hg, hrd⟩, ⟨hx, hrd2⟩, ⟨hy, hrd3⟩, hdone⟩ :=
      finishEgcd_of_fits hinv.1.1 ((wellFormed_egcd ..).mp hwf) hres hfits
    exact ⟨t, (exec_own hf).trans (congrArg _ ht), hg, hx, hy, hrd, hrd2, hrd3, hdone⟩
  · exact ⟨_, (exec_own hf).trans (congrArg _ (finishEgcd_of_not_fits rd rd2 rd3 hres hfits)),
      sameRegsBut_of_br rfl _, rfl, rfl, rfl, rfl⟩

/-! Bezout's identity (R186) -/

/-- A legal register has 32 bits at least (R6). -/
theorem two_le_w {p : Params} (h : p.wf) : 2 ≤ p.w :=
  calc 2 ≤ 32 * 1 := by decide
    _ ≤ 32 * p.ww := Nat.mul_le_mul_left _ h.1

/-- Settles O34: what R186 says of the run's result, read back from the registers it was written to; the results always
fit. -/
theorem egcdGivesBezout : Obligations.EgcdGivesBezout := by
  refine ⟨?_, 1, 1, euclidRun_iff_extendedGcd.mpr (by decide)⟩
  intro s t rd rd2 rd3 rs1 rs2 sgn a b hinv hf hexec _
  obtain ⟨hwf, ha, hb⟩ := hinv.egcd_operands hf
  have hfits := egcdFits_extendedGcd (two_le_w hwf) ha hb
  have hrun : EuclidRun a b 1 0 0 1 (extendedGcd a b) := euclidRun_iff_extendedGcd.mpr rfl
  obtain ⟨hwrites, -⟩ := egcdFollowsTheRecurrence.2 s rd rd2 rd3 rs1 rs2 sgn a b _ _ _ hf hrun
  obtain ⟨t', hexec', hg, hx, hy, -⟩ := hwrites hinv hfits
  obtain rfl := Host.Outcome.next.inj (hexec'.symm.trans hexec)
  rw [hg, hx, hy]
  refine ⟨hrun.bezout (by ring) (by ring), hrun.natAbs_eq_gcd, ?_⟩
  rintro rfl
  exact extendedGcd_fst_nonneg ha.1 hb.1

end Sys2Proof.Machine

/-! Soft reset and abort (R32, R212, R213): what the two CTRL bits make of the write, and how an abort leaves a command. -/

namespace Sys2Proof.Machine

/-- A CTRL write with SRST set is the soft reset, whatever the other bits (R32). -/
theorem State.writeCtrl_srst {s : State} {d : Word} (h2 : d.getLsbD 2 = true) : s.writeCtrl d = s.softReset := if_pos h2

/-- A CTRL write with ABORT set and SRST clear writes IE and then aborts (R32). -/
theorem State.writeCtrl_abort {s : State} {d : Word} (h2 : d.getLsbD 2 = false) (h1 : d.getLsbD 1 = true) :
    s.writeCtrl d = (s.setIe (d.getLsbD 0)).abort := by
  simp only [State.writeCtrl, h2, h1, Bool.false_eq_true, if_false, if_true]

/-- Settles O18: the write is `softReset`, after the turn is taken and the write answered. -/
theorem softResetActs : Obligations.SoftResetActs := by
  intro s d rest hturns h2
  have hstep := step_writeCtrl hturns
  rw [State.writeCtrl_srst h2] at hstep
  exact ⟨_, hstep, rfl, rfl, rfl, rfl, rfl, rfl, rfl, rfl, rfl, rfl, rfl, rfl, rfl, rfl⟩

theorem State.abort_idle {s : State} (hidle : s.flight = none) : s.abort = s := by
  simp only [State.abort, hidle]

/-- An abort while BUSY completes the command with ERR_ABORTED (R212), whatever the command. -/
theorem State.abort_completed {s : State} (hbusy : s.flight ≠ none) : completed s.abort .aborted false := by
  obtain ⟨hidle, -⟩ | ⟨_, _, _, _, -, h⟩ | ⟨-, h⟩ := s.abort_cases
  · exact absurd hidle hbusy
  · rw [h]; exact ⟨rfl, rfl, rfl, rfl⟩
  · rw [h]; exact ⟨rfl, rfl, rfl, rfl⟩

/-- After an abort while BUSY, `irq` is IE (R206, R212). -/
theorem State.abort_irq {s : State} (hbusy : s.flight ≠ none) : s.abort.irq = s.ie := by
  obtain ⟨-, hdone, -⟩ := State.abort_completed hbusy
  simp [State.irq, hdone]

/-- The abort of a PGEN moves its count to CANDCNT (R136). -/
theorem State.abort_candcnt_of_pgen {s : State} {rd : Reg} {bits : BitVec 16} {cand : Nat} {ph : GenPhase}
    (hf : s.flight = some (.pgen rd bits cand ph)) : s.abort.candcnt = candWord cand := by
  simp only [State.abort, hf, State.completePgen_candcnt]

/-- An abort leaves CANDCNT where no PGEN is in flight (R136). -/
theorem State.abort_candcnt_of_not_pgen {s : State} (hf : ∀ rd bits cand ph, s.flight ≠ some (.pgen rd bits cand ph)) :
    s.abort.candcnt = s.candcnt := by
  obtain ⟨-, h⟩ | ⟨rd, bits, cand, ph, hpgen, -⟩ | ⟨-, h⟩ := s.abort_cases
  · rw [h]
  · exact absurd hpgen (hf rd bits cand ph)
  · rw [h]; rfl

/-- Settles O19: the write is IE's and then the abort's, which completes a command in flight and leaves an idle block. -/
theorem abortActs : Obligations.AbortActs := by
  intro s d rest hturns h2 h1
  have hstep := step_writeCtrl hturns
  rw [State.writeCtrl_abort h2 h1] at hstep
  refine ⟨_, hstep, State.abort_ie _, State.abort_br _, State.abort_fault _, State.abort_ovr _, State.abort_cmdLast _,
    fun f hf => ?_, fun hidle => ?_⟩
  · have hbusy : s.flight ≠ none := by simp [hf]
    refine ⟨State.abort_completed hbusy, State.abort_irq hbusy, ?_, fun hother => ?_⟩
    · rintro rd bits cand ph rfl
      exact State.abort_candcnt_of_pgen hf
    · exact State.abort_candcnt_of_not_pgen fun rd bits cand ph hpgen =>
        hother rd bits cand ph (Option.some.inj (hf.symm.trans hpgen))
  · simp [sameBlock, State.abort_idle, hidle]

end Sys2Proof.Machine

/-! The reset values (R241). -/

namespace Sys2Proof.Machine

/-- R241 but for the BR rows: no command in flight, `irq` low, and every control register read at its reset value. -/
def readsResetValues (s : State) : Prop :=
  s.flight = none ∧ s.irq = false ∧
    s.busRead .id = s.respond 0x52534101 ∧ s.busRead .param = s.respond (0#12 ++ 7#4 ++ BitVec.ofNat 16 s.cfg.ww) ∧
    s.busRead .ctrl = s.respond 0 ∧ s.busRead .status = s.respond 0 ∧ s.busRead .cmd = s.respond 0 ∧
    s.busRead .rounds = s.respond 0x00000400 ∧ s.busRead .retry = s.respond 0xFFFFFFFF ∧
    s.busRead .drawlim = s.respond 0xFFFFFFFF ∧ s.busRead .candcnt = s.respond 0

@[simp] theorem State.softReset_ctrlWord (s : State) : s.softReset.ctrlWord = 0 := State.ctrlWord_eq rfl rfl

@[simp] theorem State.softReset_statusWord (s : State) : s.softReset.statusWord = 0 :=
  State.statusWord_eq rfl rfl rfl rfl rfl rfl

@[simp] theorem State.softReset_irq (s : State) : s.softReset.irq = false := rfl

/-- After a soft reset the host reads the reset values (R213, R241): each field holds its row's value. -/
theorem State.softReset_readsResetValues (s : State) : readsResetValues s.softReset := by
  simp [readsResetValues, State.busRead, idWord, paramWord]

/-- A soft reset changes nothing in a block after reset, whose CSR fields are at their reset values (R213, R241). -/
@[simp] theorem State.softReset_resetOf (p : Params) : (State.resetOf p).softReset = State.resetOf p := rfl

theorem State.resetOf_readsResetValues (p : Params) : readsResetValues (State.resetOf p) :=
  State.softReset_resetOf p ▸ (State.resetOf p).softReset_readsResetValues

/-- After reset every BR word is unwritten (R27, R241). -/
theorem State.resetOf_word_unwritten {p : Params} (r : Reg) {j : Nat} (hj : j < p.ww) :
    ((State.resetOf p).word r j).wr = false := by
  have hreg : (State.resetOf p).reg r = List.replicate p.ww ⟨0, false⟩ := (State.resetOf p).reg_hardReset r
  rw [State.word, hreg, List.getD_replicate _ hj]

/-- Settles O5: both resets put every control register at its reset value; the hardware reset alone clears the BR marks. -/
theorem resetValues : Obligations.ResetValues := by
  refine ⟨?hardware, ?soft⟩
  case hardware =>
    rintro p _ rfl
    exact ⟨⟨fun r _ hj => State.resetOf_word_unwritten r hj, rfl⟩, State.resetOf_readsResetValues p⟩
  case soft =>
    rintro s _ rfl
    exact ⟨State.softReset_br s, s.softReset_readsResetValues⟩

end Sys2Proof.Machine
